-- ==== Sys2Proof/Word.lean ====
section
/-! DEFINITION. The two fixed-width values the machine moves: a register word (10_state.md R22, R35)
and a message byte (20_memory.md R60). -/

namespace Sys2Proof

/-- A 64-bit register: the physical width of `V`, `W`, `ACC` (10_state.md R22 to R24) and of every
host register (10_state.md R35). -/
abbrev Word := BitVec 64

/-- "Byte means 8 bits" (00_scope.md R10). -/
abbrev Byte := BitVec 8

end Sys2Proof
end

