-- ==== Sys2Proof/Config.lean ====
section
/-! DEFINITION. What is configuration and not state (00_scope.md R16): the three algorithms, the platform
parameters of 00_scope.md R9, and the free values, which are the constants with no body that stand for what
the spec leaves without a value (93_implementation_defined.md U1 to U3). The per-algorithm numbers of R8 and
the constant tables are functions of the algorithm and stand in Machine/Tables.lean. -/

namespace Sys2Proof

/-- The three algorithms of the core (00_scope.md R1). -/
inductive Alg where
  | sha1
  | sha256
  | sha512
  deriving DecidableEq, Repr

/-- The platform parameters of 00_scope.md R9. They are fixed for one core; a state carries them (its field
`cfg`) because `exec` and `step` take no other argument, and no step changes them (assumption 1). -/
structure Platform where
  /-- `LENW`: the width in bits of `MSG_LEN` and of a message address. -/
  lenw : Nat
  /-- `MSG_CAP`: the number of bytes of the message memory. -/
  msgCap : Nat
  deriving DecidableEq, Repr

/-- The constraints 00_scope.md R9 puts on the parameters: `1 <= LENW <= 64`, `0 <= MSG_CAP <= 2^LENW`. -/
def Platform.wf (c : Platform) : Bool :=
  decide (1 ≤ c.lenw) && decide (c.lenw ≤ 64) && decide (c.msgCap ≤ 2 ^ c.lenw)

/-- The platform `State.reset` is built on. `LENW = 64` is the default of R9. `MSG_CAP` is open there;
65536 is the value of the spec's own programs (95_test_vectors.md section 8).
DESIGN CHOICE (assumption 2), unsafe: a statement about this one platform says nothing of another. -/
def Platform.standard : Platform := ⟨64, 65536⟩

/-- FREE VALUE (20_memory.md R62, 93_implementation_defined.md U3): the byte a run reads at a message address
no accepted `WRB` has written since power-on, "drawn once per byte". Arguments: the core (`State.chip`), the
address. No body: nothing can be proved of it. Assumption 4. -/
opaque Config.unwrittenByte : Nat → Nat → Byte

/-- FREE VALUE (40_padding.md R105, 93_implementation_defined.md U1): byte `k` of the length trailer of a
message of `L` bytes whose bit length does not fit the trailer. Arguments: algorithm, `L`, `k`. Assumption 5. -/
opaque Config.overflowTrailerByte : Alg → Nat → Nat → Byte

/-- FREE VALUE: what `PMRead(j)` gives for an index outside the domain 20_memory.md R64 defines it on, which
no run from reset forms. Arguments: algorithm, `L`, `p`, `NBLK`, `j`. Assumption 6. -/
opaque Config.outsidePadByte : Alg → Nat → Nat → Nat → Nat → Byte

/-- FREE VALUE (10_state.md R50, R51, 93_implementation_defined.md U2): the contents that registers "become"
when a `RESET` transaction leaves them unspecified. Arguments: the core (`State.chip`), the number of the draw (`State.draws`).
Assumption 7. -/
opaque Config.unspecifiedWord : Nat → Nat → Word

end Sys2Proof
end

