-- ==== Sys2Proof/Syntax.lean ====
section
/-! DEFINITION. The instructions: one constructor for every mnemonic of spec/opcode_table.json (the rows that
share a mnemonic, RD.RSVD and WR.RO, differ only in a register number, which is an operand here), and the
encoded forms the three formats of 30_encoding.md R80 give them. -/

namespace Sys2Proof

/-- The sequencer's phases, all sixteen codes of its 4-bit register (10_state.md R31), the four reserved ones
included, so that no value of the register is left out. -/
inductive Phase where
  | idle | pad | init | ldblk | exp | ldv | rnd | accum | next | fin | done
  | reservedB | reservedC | reservedD | reservedE
  | fault
  deriving DecidableEq, Repr

/-- A host transaction as it reaches the core (30_encoding.md R83): the 6-bit format T descriptor and the
operands outside it. A kind that carries no address or data ignores those fields; `WRB` takes its byte from
data bits [7:0] (93_implementation_defined.md V6). -/
structure HostTxn where
  code : BitVec 6
  addr : Word
  data : Word
  deriving DecidableEq, Repr

/-- A host command, the meaning of a format C word (30_encoding.md R86). -/
inductive Command where
  | nop
  | hash (a : Alg)
  deriving DecidableEq, Repr

/-- An encoded instruction together with where it comes from: "A decoder tells the format from where the word
comes from (a CMD write, the sequencer's own state, the host agent), never from the word" (30_encoding.md R80). -/
inductive Encoded where
  /-- Format C: the data of a write to `CMD`. -/
  | command (w : BitVec 64)
  /-- Format U: the pair of phase and algorithm the sequencer decodes at every step. -/
  | micro (c : BitVec 6)
  /-- Format T: a host transaction. -/
  | txn (x : HostTxn)
  deriving DecidableEq, Repr

/-- The instruction set. -/
inductive Instr where
  -- host commands, format C (44_host_interface.md R198 to R201)
  | nop
  | hashSha1
  | hashSha256
  | hashSha512
  -- sequencer micro-operations, format U (40_padding.md, 41_schedule.md, 42_compress.md, 43_accumulator_driver.md)
  | padSha1
  | padSha256
  | padSha512
  | initSha1
  | initSha256
  | initSha512
  | ldblkSha1
  | ldblkSha256
  | ldblkSha512
  | expSha1
  | expSha256
  | expSha512
  | ldvSha1
  | ldvSha256
  | ldvSha512
  | rndSha1
  | rndSha256
  | rndSha512
  | accumSha1
  | accumSha256
  | accumSha512
  /-- `NEXT`; its code carries the algorithm in bits [1:0], which its rule ignores (30_encoding.md R87). -/
  | next (a : Alg)
  /-- `FIN`; its code carries the algorithm in bits [1:0], which its rule ignores (30_encoding.md R87). -/
  | fin (a : Alg)
  -- host transactions, format T (44_host_interface.md R192 to R207, 70_reset_and_hazards.md R230)
  | rdCmd
  | rdStatus
  | rdMsgLen
  /-- `RD` of a reserved register number, 0x3 to 0x7. -/
  | rdRsvd (reg : BitVec 4)
  /-- `RD DIGESTi`. -/
  | rdDigest (i : BitVec 3)
  | wrCmd (data : Word)
  | wrMsgLen (data : Word)
  /-- `WR` to `STATUS` (0x1), a reserved number (0x3 to 0x7) or a digest register (0x8 to 0xF). -/
  | wrRo (reg : BitVec 4) (data : Word)
  | wrb (addr : Word) (byte : Byte)
  | reset
  deriving DecidableEq, Repr

end Sys2Proof
end

