-- ==== Sys2Proof/WellFormed.lean ====
section
/-! DEFINITION. Which terms stand for an instruction: the register numbers of `RD.RSVD` and `WR.RO` are the
ones 30_encoding.md R88 lists. Every other operand takes every value its width admits. -/

namespace Sys2Proof

/-- The register number of `RD.RSVD` is 0x3 to 0x7, that of `WR.RO` 0x1 or 0x3 to 0xF (30_encoding.md R88). -/
def Instr.wf : Instr → Bool
  | .rdRsvd reg => decide (3#4 ≤ reg) && decide (reg ≤ 7#4)
  | .wrRo reg _ => decide (reg = 1#4) || decide (3#4 ≤ reg)
  | .nop | .hashSha1 | .hashSha256 | .hashSha512 => true
  | .padSha1 | .padSha256 | .padSha512 | .initSha1 | .initSha256 | .initSha512 => true
  | .ldblkSha1 | .ldblkSha256 | .ldblkSha512 | .expSha1 | .expSha256 | .expSha512 => true
  | .ldvSha1 | .ldvSha256 | .ldvSha512 | .rndSha1 | .rndSha256 | .rndSha512 => true
  | .accumSha1 | .accumSha256 | .accumSha512 | .next _ | .fin _ => true
  | .rdCmd | .rdStatus | .rdMsgLen | .rdDigest _ => true
  | .wrCmd _ | .wrMsgLen _ | .wrb _ _ | .reset => true

end Sys2Proof
end

