-- ==== Sys2Proof/Decode.lean ====
section
/-! DEFINITION. The three decoders of 30_encoding.md (formats C, U and T), each total and rejecting by name,
and the encoder written from the same tables (R81 to R83, R86 to R88). -/

namespace Sys2Proof

/-- Why a word stands for no instruction. -/
inductive Reject where
  /-- A `CMD` word that is not one of the four of 30_encoding.md R86 (R90). -/
  | illegalCommand
  /-- A micro-operation code R92 reserves: phase 0xB to 0xE, or `ALG = 0` with phase 0x1 to 0x9. -/
  | reservedMicro
  /-- Phase IDLE, DONE or FAULT: "select no operation: the sequencer has no step" (30_encoding.md R87). -/
  | noOperation
  /-- Descriptor 0x21 to 0x2F or 0x31 to 0x3F, which "name no transaction" (30_encoding.md R88). -/
  | noTransaction
  deriving DecidableEq, Repr

/-- A decoder's answer. -/
inductive Decoded where
  | instr (i : Instr)
  | reject (r : Reject)
  deriving DecidableEq, Repr

def Decoded.toOption : Decoded → Option Instr
  | .instr i => some i
  | .reject _ => none

/-! ## Codes -/

/-- The algorithm codes of 30_encoding.md R84: 1 `SHA1`, 2 `SHA256`, 3 `SHA512`. -/
def Alg.code : Alg → BitVec 2
  | .sha1 => 1#2
  | .sha256 => 2#2
  | .sha512 => 3#2

/-- The algorithm a two-bit code selects; 0 means "none" (30_encoding.md R84). -/
def Alg.ofCode (c : BitVec 2) : Option Alg :=
  if c = 1#2 then some .sha1
  else if c = 2#2 then some .sha256
  else if c = 3#2 then some .sha512
  else none

/-- The `PHASE` codes of 10_state.md R31. -/
def Phase.code : Phase → BitVec 4
  | .idle => 0x0#4 | .pad => 0x1#4 | .init => 0x2#4 | .ldblk => 0x3#4
  | .exp => 0x4#4 | .ldv => 0x5#4 | .rnd => 0x6#4 | .accum => 0x7#4
  | .next => 0x8#4 | .fin => 0x9#4 | .done => 0xA#4 | .reservedB => 0xB#4
  | .reservedC => 0xC#4 | .reservedD => 0xD#4 | .reservedE => 0xE#4 | .fault => 0xF#4

/-- The phase a four-bit code names (10_state.md R31). -/
def Phase.ofCode (c : BitVec 4) : Phase :=
  if c = 0x0#4 then .idle else if c = 0x1#4 then .pad else if c = 0x2#4 then .init
  else if c = 0x3#4 then .ldblk else if c = 0x4#4 then .exp else if c = 0x5#4 then .ldv
  else if c = 0x6#4 then .rnd else if c = 0x7#4 then .accum else if c = 0x8#4 then .next
  else if c = 0x9#4 then .fin else if c = 0xA#4 then .done else if c = 0xB#4 then .reservedB
  else if c = 0xC#4 then .reservedC else if c = 0xD#4 then .reservedD
  else if c = 0xE#4 then .reservedE else .fault

/-- The format U code: PHASE in bits 5:2, ALG in bits 1:0 (30_encoding.md R82). -/
def microCode (p : Phase) (alg : BitVec 2) : BitVec 6 := p.code ++ alg

/-- The PHASE field of a format U code. -/
def microPhase (c : BitVec 6) : BitVec 4 := c.extractLsb' 2 4

/-- The ALG field of a format U code. -/
def microAlg (c : BitVec 6) : BitVec 2 := c.extractLsb' 0 2

/-- The KIND field of a format T descriptor (30_encoding.md R83). -/
def txnKind (c : BitVec 6) : BitVec 2 := c.extractLsb' 4 2

/-- The REG field of a format T descriptor (30_encoding.md R83). -/
def txnReg (c : BitVec 6) : BitVec 4 := c.extractLsb' 0 4

/-! ## Decoders -/

/-- Format C (30_encoding.md R86, R90): a match on all 64 bits. -/
def decodeCommand (w : BitVec 64) : Option Command :=
  if w = 0x00#64 then some .nop
  else if w = 0x11#64 then some (.hash .sha1)
  else if w = 0x12#64 then some (.hash .sha256)
  else if w = 0x13#64 then some (.hash .sha512)
  else none

/-- The instruction a command is. -/
def Command.instr : Command → Instr
  | .nop => .nop
  | .hash .sha1 => .hashSha1
  | .hash .sha256 => .hashSha256
  | .hash .sha512 => .hashSha512

/-- The variant of a micro-operation that an ALG field selects; `ALG = 0` is reserved (30_encoding.md R92). -/
def byAlg (alg : BitVec 2) (f : Alg → Instr) : Decoded :=
  match Alg.ofCode alg with
  | some a => .instr (f a)
  | none => .reject .reservedMicro

/-- One of three things, chosen by the algorithm. -/
def Alg.pick {α : Type} (x1 x256 x512 : α) : Alg → α
  | .sha1 => x1
  | .sha256 => x256
  | .sha512 => x512

/-- Format U (30_encoding.md R87, the reserved codes of R92 tested first). -/
def decodeMicro (c : BitVec 6) : Decoded :=
  match Phase.ofCode (microPhase c) with
  | .idle | .done | .fault => .reject .noOperation
  | .pad => byAlg (microAlg c) (Alg.pick .padSha1 .padSha256 .padSha512)
  | .init => byAlg (microAlg c) (Alg.pick .initSha1 .initSha256 .initSha512)
  | .ldblk => byAlg (microAlg c) (Alg.pick .ldblkSha1 .ldblkSha256 .ldblkSha512)
  | .exp => byAlg (microAlg c) (Alg.pick .expSha1 .expSha256 .expSha512)
  | .ldv => byAlg (microAlg c) (Alg.pick .ldvSha1 .ldvSha256 .ldvSha512)
  | .rnd => byAlg (microAlg c) (Alg.pick .rndSha1 .rndSha256 .rndSha512)
  | .accum => byAlg (microAlg c) (Alg.pick .accumSha1 .accumSha256 .accumSha512)
  | .next => byAlg (microAlg c) .next
  | .fin => byAlg (microAlg c) .fin
  | .reservedB | .reservedC | .reservedD | .reservedE => .reject .reservedMicro

/-- `RD reg` (30_encoding.md R88): registers 0 to 2 by name, 0x3 to 0x7 reserved, 0x8 + i `DIGESTi`. -/
def decodeRead (reg : BitVec 4) : Instr :=
  if reg = 0#4 then .rdCmd
  else if reg = 1#4 then .rdStatus
  else if reg = 2#4 then .rdMsgLen
  else if reg ≤ 7#4 then .rdRsvd reg
  else .rdDigest (reg.setWidth 3)

/-- `WR reg, data` (30_encoding.md R88). -/
def decodeWrite (reg : BitVec 4) (data : Word) : Instr :=
  if reg = 0#4 then .wrCmd data
  else if reg = 2#4 then .wrMsgLen data
  else .wrRo reg data

/-- Format T (30_encoding.md R83, R88): REG must be 0 for `WRB` and `RESET`. -/
def decodeTxn (x : HostTxn) : Decoded :=
  if txnKind x.code = 0#2 then .instr (decodeRead (txnReg x.code))
  else if txnKind x.code = 1#2 then .instr (decodeWrite (txnReg x.code) x.data)
  else if txnReg x.code ≠ 0#4 then .reject .noTransaction
  else if txnKind x.code = 2#2 then .instr (.wrb x.addr (x.data.setWidth 8))
  else .instr .reset

/-- The decoder: the format is told by where the word comes from (30_encoding.md R80). -/
def decode : Encoded → Decoded
  | .command w =>
    match decodeCommand w with
    | some c => .instr c.instr
    | none => .reject .illegalCommand
  | .micro c => decodeMicro c
  | .txn x => decodeTxn x

/-! ## The encoder -/

/-- A format T descriptor from its two fields: code = KIND * 16 + REG (30_encoding.md R88). -/
def txnCode (kind : BitVec 2) (reg : BitVec 4) : BitVec 6 := kind ++ reg

/-- The words of an instruction; operands a transaction does not carry are 0. -/
def encode : Instr → Encoded
  | .nop => .command 0x00#64
  | .hashSha1 => .command 0x11#64
  | .hashSha256 => .command 0x12#64
  | .hashSha512 => .command 0x13#64
  | .padSha1 => .micro 0x05#6
  | .padSha256 => .micro 0x06#6
  | .padSha512 => .micro 0x07#6
  | .initSha1 => .micro 0x09#6
  | .initSha256 => .micro 0x0A#6
  | .initSha512 => .micro 0x0B#6
  | .ldblkSha1 => .micro 0x0D#6
  | .ldblkSha256 => .micro 0x0E#6
  | .ldblkSha512 => .micro 0x0F#6
  | .expSha1 => .micro 0x11#6
  | .expSha256 => .micro 0x12#6
  | .expSha512 => .micro 0x13#6
  | .ldvSha1 => .micro 0x15#6
  | .ldvSha256 => .micro 0x16#6
  | .ldvSha512 => .micro 0x17#6
  | .rndSha1 => .micro 0x19#6
  | .rndSha256 => .micro 0x1A#6
  | .rndSha512 => .micro 0x1B#6
  | .accumSha1 => .micro 0x1D#6
  | .accumSha256 => .micro 0x1E#6
  | .accumSha512 => .micro 0x1F#6
  | .next a => .micro (0x8#4 ++ a.code)
  | .fin a => .micro (0x9#4 ++ a.code)
  | .rdCmd => .txn ⟨txnCode 0#2 0#4, 0, 0⟩
  | .rdStatus => .txn ⟨txnCode 0#2 1#4, 0, 0⟩
  | .rdMsgLen => .txn ⟨txnCode 0#2 2#4, 0, 0⟩
  | .rdRsvd reg => .txn ⟨txnCode 0#2 reg, 0, 0⟩
  | .rdDigest i => .txn ⟨txnCode 0#2 (1#1 ++ i), 0, 0⟩
  | .wrCmd data => .txn ⟨txnCode 1#2 0#4, 0, data⟩
  | .wrMsgLen data => .txn ⟨txnCode 1#2 2#4, 0, data⟩
  | .wrRo reg data => .txn ⟨txnCode 1#2 reg, 0, data⟩
  | .wrb addr byte => .txn ⟨txnCode 2#2 0#4, addr, byte.setWidth 64⟩
  | .reset => .txn ⟨txnCode 3#2 0#4, 0, 0⟩

/-! ## The opcode table's one-number view -/

/-- A word of the opcode table with where it comes from. Formats U and T are both one byte wide there and
share codes, and the word does not tell them apart (30_encoding.md R80): a byte that is a micro-operation's
code is read as format U, else a byte that is a transaction's descriptor as format T with zero operands, else
as the format U code it is; a wider word is format C.
DESIGN CHOICE (assumption 11), safe: `step` never uses it to tell the formats apart. -/
def tableWord (nbits w : Nat) : Option Encoded :=
  if 8 < nbits then
    if w < 2 ^ 64 then some (.command (BitVec.ofNat 64 w)) else none
  else if w < 64 then
    match decodeMicro (BitVec.ofNat 6 w), decodeTxn ⟨BitVec.ofNat 6 w, 0, 0⟩ with
    | .reject _, .instr _ => some (.txn ⟨BitVec.ofNat 6 w, 0, 0⟩)
    | _, _ => some (.micro (BitVec.ofNat 6 w))
  else none

/-- The instruction the decoders read from a word of spec/opcode_table.json. -/
def decodeTableWord (nbits w : Nat) : Option Instr :=
  match tableWord nbits w with
  | some e => (decode e).toOption
  | none => none

end Sys2Proof
end

