-- ==== Sys2Proof/Machine/State.lean ====
section
/-! DEFINITION. The state of one core (10_state.md R20) with the inputs its host has still to perform, the
reasons a step can stop, and the state right after power-on (70_reset_and_hazards.md R232). -/

namespace Sys2Proof.Machine

/-- The message memory (20_memory.md R60): address and byte pairs, addresses strictly rising. An address that
is not listed holds no value (20_memory.md R62). -/
abbrev Memory := List Host.Cell

/-- Which agent moves next (70_reset_and_hazards.md R240): the host with a transaction, or the sequencer. -/
inductive Turn where
  | host (x : HostTxn)
  | seq
  deriving DecidableEq, Repr

/-- The machine's state. The fields from `v` to `msg` are those of 10_state.md R20, "Nothing else is state";
`cfg` is the platform's configuration; `turns`, `reply`, `draws` and `chip` are the model's own. -/
structure State where
  /-- The platform parameters (00_scope.md R9); configuration that no step changes (R16). -/
  cfg : Platform
  /-- The working registers `V[0..7]`, aliases `A` to `H` (10_state.md R21, R22). -/
  v : Vector Word 8
  /-- The word schedule `W[0..79]` (10_state.md R23). -/
  w : Vector Word 80
  /-- The State Accumulator `ACC[0..7]` (10_state.md R24). -/
  acc : Vector Word 8
  /-- `PHASE`, which micro-operation comes next (10_state.md R30, R31). -/
  phase : Phase
  /-- `BI`, the index of the block being processed, a natural number (10_state.md R30). -/
  bi : Nat
  /-- `T`, the round or schedule index, 7 bits (10_state.md R30). -/
  t : BitVec 7
  /-- `PADP`, the zero-fill byte count, 7 bits (10_state.md R33). -/
  padp : BitVec 7
  /-- `NBLK`, the block count, a natural number (10_state.md R33). -/
  nblk : Nat
  /-- `ERR`, the cause of the latest rejection or fault, 4 bits (10_state.md R37). -/
  err : BitVec 4
  /-- `ALG`, the algorithm of the last accepted `HASH`, 2 bits, 0 for none (10_state.md R37). -/
  alg : BitVec 2
  /-- `MSG_LEN`, `LENW` bits held zero-extended in 64 (10_state.md R38). -/
  msgLen : Word
  /-- The message memory `MSG` (20_memory.md R60). -/
  msg : Memory
  /-- The model's own: who moves at the coming steps, oldest first (assumption 8). -/
  turns : List Turn
  /-- The model's own: the word the host's latest `RD` returned, none before the first (assumption 9). -/
  reply : Option Word
  /-- The model's own: how many unspecified words have been drawn (assumption 7). -/
  draws : Nat
  /-- The model's own: which core this is. The free values that two cores need not share take it
  (20_memory.md R79, assumption 4); no step changes it. -/
  chip : Nat
  deriving DecidableEq, Repr

/-- Why the machine stops. The core's own fault (60_exceptions.md R212) is not one of these: it is a next
state, the latched phase FAULT. -/
inductive Fault where
  /-- Raised by `LDBLK` when the block takes a message byte at an address the message memory does not have
  (`addr >= MSG_CAP`), which "are never read" (20_memory.md R61): the length is checked when a command is
  accepted, so no run from reset comes here. Safe: the model stops where the spec gives no byte. -/
  | msgOutside (addr : Nat)
  deriving DecidableEq, Repr

/-- Why a step has no meaning. -/
inductive Refusal where
  /-- Raised by `exec` for an instruction that has no meaning yet. Safe: nothing follows from it. -/
  | notModelled (mnemonic : String)
  /-- Raised by `step` when the host's turn holds a descriptor that names no transaction and "cannot be issued"
  (30_encoding.md R88, 93_implementation_defined.md V5). Safe: no host can do it. -/
  | noTransaction (code : BitVec 6)
  deriving DecidableEq, Repr

/-- The power-on state of a core on a platform (10_state.md R50, 70_reset_and_hazards.md R232): `PHASE` IDLE, `ALG`, `ERR`
and `MSG_LEN` 0, every message byte without a value. The registers R50 leaves unspecified are 0 here.
DESIGN CHOICE (assumption 3), unsafe: the spec gives them no value; no rule reads one before writing it. -/
def State.powerOn (c : Platform) (chip : Nat) : State where
  cfg := c
  v := Vector.replicate 8 0
  w := Vector.replicate 80 0
  acc := Vector.replicate 8 0
  phase := .idle
  bi := 0
  t := 0
  padp := 0
  nblk := 0
  err := 0
  alg := 0
  msgLen := 0
  msg := []
  turns := []
  reply := none
  draws := 0
  chip := chip

/-- The machine right after reset, on the standard platform (assumption 2). -/
def State.reset : State := State.powerOn Platform.standard 0

end Sys2Proof.Machine
end

