-- ==== Sys2Proof/Machine/Ops.lean ====
section
/-! DEFINITION. The operations over memory and registers every meaning is written with: the message memory, the
sequencer position, `reject`, the entry into the core's one fault, and the one way out of it. -/

namespace Sys2Proof.Machine

/-! ## The message memory -/

/-- The canonical form: addresses strictly rising. An unlisted address holds no value (20_memory.md R62), so no
entry can equal what it reads as (assumption 4). -/
abbrev Memory.wf (m : Memory) : Prop := m.Pairwise fun x y => x.1 < y.1

/-- What the host last wrote at an address; `none`, no value, if it wrote nothing (20_memory.md R61, R62). -/
def Memory.read : Memory → Nat → Option Byte
  | [], _ => none
  | (k, b) :: m, a => if k = a then some b else Memory.read m a

/-- Writes one byte and keeps the canonical form. -/
def Memory.write : Memory → Nat → Byte → Memory
  | [], a, b => [(a, b)]
  | (k, c) :: m, a, b =>
    if a < k then (a, b) :: (k, c) :: m
    else if a = k then (a, b) :: m
    else (k, c) :: Memory.write m a b

/-- `MemRead(MSG, a, 1)` (20_memory.md R61); an address never written reads as its free value (R62). -/
def State.msgByte (s : State) (a : Nat) : Byte :=
  match Memory.read s.msg a with
  | some b => b
  | none => Config.unwrittenByte s.chip a

/-- `MSG[a] <- b` (44_host_interface.md R193). -/
def State.storeByte (s : State) (a : Nat) (b : Byte) : State :=
  { s with msg := Memory.write s.msg a b }

/-! ## Registers -/

/-- `SEQ <- (phase, bi, t)` (00_scope.md R13). -/
def State.goto (s : State) (p : Phase) (bi : Nat) (t : BitVec 7) : State :=
  { s with phase := p, bi := bi, t := t }

/-- The low `LENW` bits of a word, zero-extended (10_state.md R38). -/
def lengthOf (c : Platform) (x : Word) : Word := BitVec.ofNat 64 (x.toNat % 2 ^ c.lenw)

/-- `MSG_LEN <- data[LENW-1:0]` (10_state.md R38). -/
def State.setMsgLen (s : State) (x : Word) : State := { s with msgLen := lengthOf s.cfg x }

/-- A read transaction returns a word to the host. -/
def State.respond (s : State) (x : Word) : State := { s with reply := some x }

/-! ## Rejections, the fault, reset -/

/-- Cause codes (60_exceptions.md R210). -/
def causeRoundIndex : BitVec 4 := 1#4
def causeCmdIllegal : BitVec 4 := 2#4
def causeBusyWrite : BitVec 4 := 3#4
def causeLenRange : BitVec 4 := 4#4

/-- `reject(cause)`: "no effect on any state except `ERR <- cause`" (60_exceptions.md R214). -/
def State.reject (s : State) (cause : BitVec 4) : State := { s with err := cause }

/-- `raise Fault(1)`, entry (60_exceptions.md R212): together `PHASE <- FAULT`, `ERR <- 1`; nothing is saved and
nothing else changes. -/
def State.raiseFault (s : State) : State := { s with phase := .fault, err := causeRoundIndex }

/-- The acceptance of `HASH.alg`: `ALG <- ALGSEL, ERR <- 0, SEQ <- (PAD, BI, T)` (44_host_interface.md R197). -/
def State.accept (s : State) (a : Alg) : State := { s with alg := a.code, err := 0, phase := .pad }

/-- Draw `k` of the unspecified words a reset leaves in registers (10_state.md R51, assumption 7). -/
def State.unspecified (s : State) (k : Nat) : Word := Config.unspecifiedWord s.chip (s.draws + k)

/-- The reset event, "The only exit" from the fault (60_exceptions.md R213, 70_reset_and_hazards.md R230):
control state to its reset values, `MSG` unchanged, every other register of R230's list unspecified, each
within its width. -/
def State.resetCore (s : State) : State :=
  { s with
    phase := .idle
    alg := 0
    err := 0
    msgLen := 0
    bi := (s.unspecified 0).toNat % 2 ^ s.cfg.lenw
    nblk := (s.unspecified 1).toNat % 2 ^ s.cfg.lenw
    t := (s.unspecified 2).setWidth 7
    padp := (s.unspecified 3).setWidth 7
    v := Vector.ofFn fun i : Fin 8 => s.unspecified (4 + i.val)
    acc := Vector.ofFn fun i : Fin 8 => s.unspecified (12 + i.val)
    w := Vector.ofFn fun i : Fin 80 => s.unspecified (20 + i.val)
    draws := s.draws + 100 }

end Sys2Proof.Machine
end

