-- ==== Sys2Proof/Machine/Flags.lean ====
section
/-! DEFINITION. The three status flags, functions of `PHASE` (10_state.md R34), and the `STATUS` word (R37). No
other flag exists: "No arithmetic operation of the core produces a carry, overflow, zero or sign flag" (R34). -/

namespace Sys2Proof

/-- `BUSY`: phase 0x1 to 0x9 (10_state.md R34). -/
def Phase.busy : Phase → Bool
  | .pad | .init | .ldblk | .exp | .ldv | .rnd | .accum | .next | .fin => true
  | .idle | .done | .reservedB | .reservedC | .reservedD | .reservedE | .fault => false

/-- `DONE`: phase 0xA (10_state.md R34). -/
def Phase.isDone (p : Phase) : Bool := decide (p = .done)

/-- `FATAL`: phase 0xF (10_state.md R34). -/
def Phase.fatal (p : Phase) : Bool := decide (p = .fault)

namespace Machine

/-- The `STATUS` word (10_state.md R37): ERR in 11:8, ALG in 5:4, FATAL, DONE, BUSY in 2, 1, 0, the rest 0. -/
def State.status (s : State) : Word :=
  0#52 ++ s.err ++ 0#2 ++ s.alg ++ 0#1 ++ BitVec.ofBool s.phase.fatal ++ BitVec.ofBool s.phase.isDone
    ++ BitVec.ofBool s.phase.busy

end Machine

end Sys2Proof
end

