-- ==== Sys2Proof/Machine/Units.lean ====
section
/-! DEFINITION. The combinational units of the datapath: the word operators of 00_scope.md R11, the Boolean
functions and sigmas of 41_schedule.md and 42_compress.md, one schedule word, one round, one fold. Registers
are 64 bits wide; under a 32-bit algorithm a unit "reads bits [31:0] only and writes zext_64 of a 32-bit
result" (10_state.md R22). Modular addition `add_w` is the addition of `BitVec w`. -/

namespace Sys2Proof.Machine

/-! ## Word operators -/

/-- `rotr_w(x, n) = shr(x, n) OR ((x * 2^(w-n)) mod 2^w)` for `0 < n < w` (00_scope.md R11). -/
def rotr {w : Nat} (x : BitVec w) (n : Nat) : BitVec w := (x >>> n) ||| (x <<< (w - n))

/-- `rotl_w(x, n) = rotr_w(x, w - n)` (00_scope.md R11). -/
def rotl {w : Nat} (x : BitVec w) (n : Nat) : BitVec w := rotr x (w - n)

/-- The low 32 bits of a register, all a 32-bit algorithm reads of it (10_state.md R22). -/
def low32 (x : Word) : BitVec 32 := x.setWidth 32

/-- `zext_64` (00_scope.md R10). -/
def zext64 (x : BitVec 32) : Word := x.setWidth 64

/-! ## Boolean functions -/

/-- `Ch` (42_compress.md R143). -/
def ch {w : Nat} (x y z : BitVec w) : BitVec w := (x &&& y) ^^^ (~~~x &&& z)

/-- `Maj` (42_compress.md R144). -/
def maj {w : Nat} (x y z : BitVec w) : BitVec w := (x &&& y) ^^^ (x &&& z) ^^^ (y &&& z)

/-- `Parity` (42_compress.md R145). -/
def parity {w : Nat} (x y z : BitVec w) : BitVec w := x ^^^ y ^^^ z

/-- `f_SHA1(t, B, C, D)` (42_compress.md R146), in the source's spelling with OR. For `t` outside 0 to 79 "the function
has no value" (R146); this total function gives Parity there, and `rndOp` tests the index first.
DESIGN CHOICE (assumption 21), safe: no meaning uses that value. -/
def fSha1 (t : Nat) (b c d : BitVec 32) : BitVec 32 :=
  match sha1Range t with
  | 0 => (b &&& c) ||| (~~~b &&& d)
  | 2 => (b &&& c) ||| (b &&& d) ||| (c &&& d)
  | _ => b ^^^ c ^^^ d

/-! ## Sigmas -/

/-- 41_schedule.md R121. -/
def ssig0Sha256 (x : BitVec 32) : BitVec 32 := rotr x 7 ^^^ rotr x 18 ^^^ (x >>> 3)

/-- 41_schedule.md R122. -/
def ssig1Sha256 (x : BitVec 32) : BitVec 32 := rotr x 17 ^^^ rotr x 19 ^^^ (x >>> 10)

/-- 41_schedule.md R123. -/
def ssig0Sha512 (x : BitVec 64) : BitVec 64 := rotr x 1 ^^^ rotr x 8 ^^^ (x >>> 7)

/-- 41_schedule.md R127. -/
def ssig1Sha512 (x : BitVec 64) : BitVec 64 := rotr x 19 ^^^ rotr x 61 ^^^ (x >>> 6)

/-- 42_compress.md R147, with the first amount 2 that 90_conflicts.md C1 settles. -/
def bsig0Sha256 (x : BitVec 32) : BitVec 32 := rotr x 2 ^^^ rotr x 13 ^^^ rotr x 22

/-- 42_compress.md R148. -/
def bsig1Sha256 (x : BitVec 32) : BitVec 32 := rotr x 6 ^^^ rotr x 11 ^^^ rotr x 25

/-- 42_compress.md R149. -/
def bsig0Sha512 (x : BitVec 64) : BitVec 64 := rotr x 28 ^^^ rotr x 34 ^^^ rotr x 39

/-- 42_compress.md R153. -/
def bsig1Sha512 (x : BitVec 64) : BitVec 64 := rotr x 14 ^^^ rotr x 18 ^^^ rotr x 41

/-! ## One schedule word -/

/-- `W[t]`. A rule forms only indices below 80 (41_schedule.md R128, 42_compress.md R154); at others it gives 0.
DESIGN CHOICE (assumption 21), safe. -/
def wAt (w : Vector Word 80) (t : Nat) : Word := if h : t < 80 then w[t] else 0

/-- The word `EXP.SHA1` writes (41_schedule.md R124). -/
def expandSha1 (w : Vector Word 80) (t : Nat) : Word :=
  zext64 (rotl (low32 (wAt w (t - 3)) ^^^ low32 (wAt w (t - 8)) ^^^ low32 (wAt w (t - 14))
    ^^^ low32 (wAt w (t - 16))) 1)

/-- The word `EXP.SHA256` writes (41_schedule.md R125). -/
def expandSha256 (w : Vector Word 80) (t : Nat) : Word :=
  zext64 (ssig1Sha256 (low32 (wAt w (t - 2))) + low32 (wAt w (t - 7))
    + ssig0Sha256 (low32 (wAt w (t - 15))) + low32 (wAt w (t - 16)))

/-- The word `EXP.SHA512` writes (41_schedule.md R126). -/
def expandSha512 (w : Vector Word 80) (t : Nat) : Word :=
  ssig1Sha512 (wAt w (t - 2)) + wAt w (t - 7) + ssig0Sha512 (wAt w (t - 15)) + wAt w (t - 16)

/-- The schedule word of an algorithm. -/
def expandWord (a : Alg) (w : Vector Word 80) (t : Nat) : Word :=
  match a with
  | .sha1 => expandSha1 w t
  | .sha256 => expandSha256 w t
  | .sha512 => expandSha512 w t

/-! ## One round: the working registers before it, `W[t]`, and the registers after it -/

/-- The register update of `RND.SHA1` (42_compress.md R150); `V[5..7]` are not written. -/
def roundSha1 (t : Nat) (v : Vector Word 8) (wt : Word) : Vector Word 8 :=
  let a := low32 v[0]
  let b := low32 v[1]
  let c := low32 v[2]
  let d := low32 v[3]
  let e := low32 v[4]
  let temp := rotl a 5 + fSha1 t b c d + e + low32 wt + kSha1 t
  #v[zext64 temp, zext64 a, zext64 (rotl b 30), zext64 c, zext64 d, v[5], v[6], v[7]]

/-- The register update of `RND.SHA256` (42_compress.md R151). -/
def roundSha256 (t : Nat) (v : Vector Word 8) (wt : Word) : Vector Word 8 :=
  let a := low32 v[0]
  let b := low32 v[1]
  let c := low32 v[2]
  let d := low32 v[3]
  let e := low32 v[4]
  let f := low32 v[5]
  let g := low32 v[6]
  let h := low32 v[7]
  let temp1 := h + bsig1Sha256 e + ch e f g + kSha256 t + low32 wt
  let temp2 := bsig0Sha256 a + maj a b c
  #v[zext64 (temp1 + temp2), zext64 a, zext64 b, zext64 c, zext64 (d + temp1), zext64 e, zext64 f, zext64 g]

/-- The register update of `RND.SHA512` (42_compress.md R152). -/
def roundSha512 (t : Nat) (v : Vector Word 8) (wt : Word) : Vector Word 8 :=
  let temp1 := v[7] + bsig1Sha512 v[4] + ch v[4] v[5] v[6] + kSha512 t + wt
  let temp2 := bsig0Sha512 v[0] + maj v[0] v[1] v[2]
  #v[temp1 + temp2, v[0], v[1], v[2], v[3] + temp1, v[4], v[5], v[6]]

/-- The round of an algorithm. -/
def roundOf (a : Alg) (t : Nat) (v : Vector Word 8) (wt : Word) : Vector Word 8 :=
  match a with
  | .sha1 => roundSha1 t v wt
  | .sha256 => roundSha256 t v wt
  | .sha512 => roundSha512 t v wt

/-! ## The accumulator -/

/-- One word of the initial state (10_state.md R42, R44, R46); `ACC[5..7]` of `SHA1` are 0
(43_accumulator_driver.md R170). -/
def ivWord (a : Alg) (i : Fin 8) : Word :=
  match a with
  | .sha1 => if h : i.val < 5 then zext64 (ivSha1[i.val]) else 0
  | .sha256 => zext64 ivSha256[i]
  | .sha512 => ivSha512[i]

/-- What `INIT.alg` writes to `ACC[0..7]` (43_accumulator_driver.md R170 to R172). -/
def initialAcc (a : Alg) : Vector Word 8 := Vector.ofFn (ivWord a)

/-- The addition of a word of `V` into one of `ACC`, at the algorithm's width. -/
def addWord (a : Alg) (x y : Word) : Word :=
  match a with
  | .sha1 => zext64 (low32 x + low32 y)
  | .sha256 => zext64 (low32 x + low32 y)
  | .sha512 => x + y

/-- What `ACCUM.alg` writes: words `0..n-1` added, the others kept (43_accumulator_driver.md R174 to R176). -/
def fold (a : Alg) (acc v : Vector Word 8) : Vector Word 8 :=
  Vector.ofFn fun i : Fin 8 => if i.val < a.words then addWord a acc[i] v[i] else acc[i]

/-- A word as an algorithm's `LDV` copies it: at the algorithm's width, zero-extended (10_state.md R22). -/
def narrow (a : Alg) (x : Word) : Word :=
  match a with
  | .sha1 => zext64 (low32 x)
  | .sha256 => zext64 (low32 x)
  | .sha512 => x

/-- What `LDV.alg` leaves in `V`: words `0..n-1` from `ACC`, the others kept (42_compress.md R140 to R142). -/
def loadV (a : Alg) (acc v : Vector Word 8) : Vector Word 8 :=
  Vector.ofFn fun i : Fin 8 => if i.val < a.words then narrow a acc[i] else v[i]

end Sys2Proof.Machine
end

