-- ==== Sys2Proof/Machine/Operands.lean ====
section
/-! DEFINITION. The operand forms: the padded-message space (20_memory.md R64) with the padding arithmetic it
rests on (40_padding.md R103), the big-endian assembly of its bytes into words (20_memory.md R67), and the gated
view of the accumulator (10_state.md R39). All arithmetic on lengths and indices is exact, on natural numbers
(20_memory.md R68). The register and table indices of 30_encoding.md R85 stand where they are used
(Machine/Units.lean, Machine/Tables.lean). -/

namespace Sys2Proof.Machine

/-- The padding length `p` of a message of `l` bytes (40_padding.md R103). -/
def padLen (a : Alg) (l : Nat) : Nat := (a.bs - (l + 1 + a.lfb) % a.bs) % a.bs

/-- The block count `NB` (40_padding.md R103). -/
def blockCount (a : Alg) (l : Nat) : Nat := (l + 1 + padLen a l + a.lfb) / a.bs

/-- Byte `k` of the length trailer: `8 * L` as a big-endian number of `lfb` bytes (20_memory.md R64 (d)). Where
`8 * L` does not fit, the byte has no value (40_padding.md R105): a free value. -/
def trailerByte (a : Alg) (l k : Nat) : Byte :=
  if 8 * l < 2 ^ (8 * a.lfb) then BitVec.ofNat 8 (8 * l / 2 ^ (8 * (a.lfb - 1 - k)))
  else Config.overflowTrailerByte a l k

/-- `PMRead(j)` (20_memory.md R64), from the message bytes `m`, `L`, `p` and `NBLK`. Outside
`0 <= j < NBLK * bs`, and past the trailer, R64 defines no byte: a free value. -/
def paddedByte (a : Alg) (m : Nat → Byte) (l p nb j : Nat) : Byte :=
  if nb * a.bs ≤ j then Config.outsidePadByte a l p nb j
  else if j < l then m j
  else if j = l then 0x80#8
  else if j < l + 1 + p then 0x00#8
  else if j < l + 1 + p + a.lfb then trailerByte a l (j - (l + 1 + p))
  else Config.outsidePadByte a l p nb j

/-- `PMRead(j)` of the run in progress: `L = MSG_LEN`, `p = PADP` (20_memory.md R64). -/
def State.pmRead (s : State) (a : Alg) (j : Nat) : Byte :=
  paddedByte a s.msgByte s.msgLen.toNat s.padp.toNat s.nblk j

/-- `be_w` of the `k` bytes from index `b`, first byte most significant (00_scope.md R13), zero-extended. -/
def beWord (f : Nat → Byte) (b k : Nat) : Word :=
  BitVec.ofNat 64 ((List.range k).foldl (fun n i => n * 256 + (f (b + i)).toNat) 0)

/-- Word `j` of block `i` of a padded message (20_memory.md R67). -/
def blockWord (a : Alg) (pm : Nat → Byte) (i j : Nat) : Word :=
  beWord pm (i * a.bs + j * a.wb) a.wb

/-- What `LDBLK.alg` leaves in `W`: words 0 to 15 from the block, the others kept (40_padding.md R106 to R108). -/
def loadBlock (a : Alg) (pm : Nat → Byte) (i : Nat) (w : Vector Word 80) : Vector Word 80 :=
  Vector.ofFn fun j : Fin 80 => if j.val < 16 then blockWord a pm i j.val else w[j]

/-- The first message address that `PMRead` takes for the block at `BI` and that the message memory does not
have, if there is one: "Addresses `a >= MSG_CAP` are never read" (20_memory.md R61). -/
def State.outsideAddress (s : State) (a : Alg) : Option Nat :=
  let lo := max (s.bi * a.bs) s.cfg.msgCap
  let hi := min (min s.msgLen.toNat (s.nblk * a.bs)) (s.bi * a.bs + a.bs)
  if lo < hi then some lo else none

/-- An accumulator word at the width of the algorithm in `ALG`, zero-extended (10_state.md R22, R39). -/
def State.accWord (s : State) (i : Fin 8) : Word :=
  match Alg.ofCode s.alg with
  | some a => narrow a s.acc[i]
  | none => s.acc[i]

/-- `DIGESTi` (10_state.md R39): the accumulator word if `DONE = 1`, else 0. -/
def State.digestReg (s : State) (i : Fin 8) : Word :=
  if s.phase.isDone then s.accWord i else 0

end Sys2Proof.Machine
end

