-- ==== Sys2Proof/Machine/Accumulate.lean ====
section
/-! DEFINITION. The state accumulator and the block loop: `INIT.alg`, `ACCUM.alg`, `NEXT`, `FIN`
(43_accumulator_driver.md R170 to R178). -/

namespace Sys2Proof.Machine

/-- `INIT.alg`: all of `ACC[0..7]` written, `SEQ <- (LDBLK, 0, T)`. -/
def initOp (a : Alg) (s : State) : State :=
  ({ s with acc := initialAcc a } : State).goto .ldblk 0 s.t

/-- `ACCUM.alg`: the working registers added into the accumulator, `SEQ <- (NEXT, BI, T)`. -/
def accumOp (a : Alg) (s : State) : State :=
  ({ s with acc := fold a s.acc s.v } : State).goto .next s.bi s.t

/-- The two ways `NEXT` goes (43_accumulator_driver.md R177). -/
def nextOp (s : State) : State :=
  if s.bi + 1 = s.nblk then s.goto .fin s.bi s.t else s.goto .ldblk (s.bi + 1) s.t

/-- `INIT.SHA1` (43_accumulator_driver.md R170). -/
def execInitSha1 (s : State) : Host.Outcome State Fault Refusal := .next (initOp .sha1 s)

/-- `INIT.SHA256` (43_accumulator_driver.md R171). -/
def execInitSha256 (s : State) : Host.Outcome State Fault Refusal := .next (initOp .sha256 s)

/-- `INIT.SHA512` (43_accumulator_driver.md R172). -/
def execInitSha512 (s : State) : Host.Outcome State Fault Refusal := .next (initOp .sha512 s)

/-- `ACCUM.SHA1` (43_accumulator_driver.md R174). -/
def execAccumSha1 (s : State) : Host.Outcome State Fault Refusal := .next (accumOp .sha1 s)

/-- `ACCUM.SHA256` (43_accumulator_driver.md R175). -/
def execAccumSha256 (s : State) : Host.Outcome State Fault Refusal := .next (accumOp .sha256 s)

/-- `ACCUM.SHA512` (43_accumulator_driver.md R176). -/
def execAccumSha512 (s : State) : Host.Outcome State Fault Refusal := .next (accumOp .sha512 s)

/-- `NEXT` (43_accumulator_driver.md R177); the algorithm bits of its code are ignored. -/
def execNext (_ : Alg) (s : State) : Host.Outcome State Fault Refusal := .next (nextOp s)

/-- `FIN` (43_accumulator_driver.md R178): `SEQ <- (DONE, BI, T)`; the algorithm bits are ignored. -/
def execFin (_ : Alg) (s : State) : Host.Outcome State Fault Refusal := .next (s.goto .done s.bi s.t)

end Sys2Proof.Machine
end

