-- ==== Sys2Proof/Machine/Compress.lean ====
section
/-! DEFINITION. The compression-round pipeline: `LDV.alg` (42_compress.md R140 to R142) and `RND.alg` (R150 to
R152, the index check R154). -/

namespace Sys2Proof.Machine

/-- `LDV.alg`: the working registers from the accumulator, `SEQ <- (RND, BI, 0)`. -/
def ldvOp (a : Alg) (s : State) : State :=
  ({ s with v := loadV a s.acc s.v } : State).goto .rnd s.bi 0#7

/-- `RND.alg` at index `T`: outside `0..R-1` the fault (42_compress.md R154); else one round and `T` counts up,
or the phase goes to ACCUM at `T = R - 1`. -/
def rndOp (a : Alg) (s : State) : State :=
  if s.t.toNat ≤ a.rounds - 1 then
    let s1 : State := { s with v := roundOf a s.t.toNat s.v (wAt s.w s.t.toNat) }
    if s.t.toNat = a.rounds - 1 then s1.goto .accum s.bi s.t else s1.goto .rnd s.bi (s.t + 1)
  else s.raiseFault

/-- `LDV.SHA1` (42_compress.md R140). -/
def execLdvSha1 (s : State) : Host.Outcome State Fault Refusal := .next (ldvOp .sha1 s)

/-- `LDV.SHA256` (42_compress.md R141). -/
def execLdvSha256 (s : State) : Host.Outcome State Fault Refusal := .next (ldvOp .sha256 s)

/-- `LDV.SHA512` (42_compress.md R142). -/
def execLdvSha512 (s : State) : Host.Outcome State Fault Refusal := .next (ldvOp .sha512 s)

/-- `RND.SHA1` (42_compress.md R150). -/
def execRndSha1 (s : State) : Host.Outcome State Fault Refusal := .next (rndOp .sha1 s)

/-- `RND.SHA256` (42_compress.md R151). -/
def execRndSha256 (s : State) : Host.Outcome State Fault Refusal := .next (rndOp .sha256 s)

/-- `RND.SHA512` (42_compress.md R152). -/
def execRndSha512 (s : State) : Host.Outcome State Fault Refusal := .next (rndOp .sha512 s)

end Sys2Proof.Machine
end

