-- ==== Sys2Proof/Machine/HostPort.lean ====
section
/-! DEFINITION. The host interface: commands and transactions (44_host_interface.md R192 to R207) and the reset
event (70_reset_and_hazards.md R230). "The order of tests is fixed": faulted, decode, busy, length or address
(60_exceptions.md R215). -/

namespace Sys2Proof.Machine

/-! ## Commands, format C -/

/-- `HASH.alg`, the part common to the three (44_host_interface.md R197; discarded in FAULT, R196). -/
def hashOp (a : Alg) (s : State) : State :=
  if s.phase.fatal then s
  else if s.phase.busy then s.reject causeBusyWrite
  else if s.cfg.msgCap < s.msgLen.toNat then s.reject causeLenRange
  else s.accept a

/-- `NOP`: "(nothing)", in every phase (44_host_interface.md R201). -/
def execNop (s : State) : Host.Outcome State Fault Refusal := .next s

/-- `HASH.SHA1` (44_host_interface.md R198). -/
def execHashSha1 (s : State) : Host.Outcome State Fault Refusal := .next (hashOp .sha1 s)

/-- `HASH.SHA256` (44_host_interface.md R199). -/
def execHashSha256 (s : State) : Host.Outcome State Fault Refusal := .next (hashOp .sha256 s)

/-- `HASH.SHA512` (44_host_interface.md R200). -/
def execHashSha512 (s : State) : Host.Outcome State Fault Refusal := .next (hashOp .sha512 s)

/-- The effect of a command. -/
def execCommand (c : Command) (s : State) : Host.Outcome State Fault Refusal :=
  match c with
  | .nop => execNop s
  | .hash .sha1 => execHashSha1 s
  | .hash .sha256 => execHashSha256 s
  | .hash .sha512 => execHashSha512 s

/-! ## Reads -/

/-- `RD.CMD`: returns 0 (44_host_interface.md R207). -/
def execRdCmd (s : State) : Host.Outcome State Fault Refusal := .next (s.respond 0)

/-- `RD.STATUS` (44_host_interface.md R203). -/
def execRdStatus (s : State) : Host.Outcome State Fault Refusal := .next (s.respond s.status)

/-- `RD.MSG_LEN`: returns `zext_64(MSG_LEN)` (44_host_interface.md R206). -/
def execRdMsgLen (s : State) : Host.Outcome State Fault Refusal := .next (s.respond s.msgLen)

/-- `RD.RSVD`: a reserved register returns 0 (44_host_interface.md R207). -/
def execRdRsvd (_ : BitVec 4) (s : State) : Host.Outcome State Fault Refusal := .next (s.respond 0)

/-- `RD.DIGEST` (44_host_interface.md R204). -/
def execRdDigest (i : BitVec 3) (s : State) : Host.Outcome State Fault Refusal :=
  .next (s.respond (s.digestReg i.toFin))

/-! ## Writes -/

/-- `WR.CMD` (44_host_interface.md R195): discarded when faulted; else decoded as a format C word and performed,
an illegal word rejected with cause 2 (R202). -/
def execWrCmd (data : Word) (s : State) : Host.Outcome State Fault Refusal :=
  if s.phase.fatal then .next s
  else
    match decodeCommand data with
    | some c => execCommand c s
    | none => .next (s.reject causeCmdIllegal)

/-- `WR.MSG_LEN` (44_host_interface.md R192). -/
def execWrMsgLen (data : Word) (s : State) : Host.Outcome State Fault Refusal :=
  if s.phase.fatal then .next s
  else if s.phase.busy then .next (s.reject causeBusyWrite)
  else .next (s.setMsgLen data)

/-- `WR.RO`: discarded "in every condition; ERR unchanged" (44_host_interface.md R194). -/
def execWrRo (_ : BitVec 4) (_ : Word) (s : State) : Host.Outcome State Fault Refusal := .next s

/-- `WRB` (44_host_interface.md R193). -/
def execWrb (addr : Word) (byte : Byte) (s : State) : Host.Outcome State Fault Refusal :=
  if s.phase.fatal then .next s
  else if s.phase.busy then .next (s.reject causeBusyWrite)
  else if s.cfg.msgCap ≤ addr.toNat then .next (s.reject causeLenRange)
  else .next (s.storeByte addr.toNat byte)

/-- `RESET` (70_reset_and_hazards.md R230): accepted in every phase. -/
def execReset (s : State) : Host.Outcome State Fault Refusal := .next s.resetCore

end Sys2Proof.Machine
end

