-- ==== Sys2Proof/Machine/Padding.lean ====
section
/-! DEFINITION. The padding stage: `PAD.alg` (40_padding.md R100 to R102) and `LDBLK.alg` (R106 to R108). -/

namespace Sys2Proof.Machine

/-- `PAD.alg`: `PADP <- p`, `NBLK <- NB`, `SEQ <- (INIT, BI, T)`; R103 gives `p` and `NB`. -/
def padOp (a : Alg) (s : State) : State :=
  { s with
    padp := BitVec.ofNat 7 (padLen a s.msgLen.toNat)
    nblk := blockCount a s.msgLen.toNat
    phase := .init }

/-- `LDBLK.alg`: `W[0..15]` from the block at `BI`, `SEQ <- (EXP, BI, 16)`. -/
def ldblkOp (a : Alg) (s : State) : Host.Outcome State Fault Refusal :=
  match s.outsideAddress a with
  | some addr => .fault (.msgOutside addr)
  | none => .next (({ s with w := loadBlock a (s.pmRead a) s.bi s.w } : State).goto .exp s.bi 16#7)

/-- `PAD.SHA1` (40_padding.md R100). -/
def execPadSha1 (s : State) : Host.Outcome State Fault Refusal := .next (padOp .sha1 s)

/-- `PAD.SHA256` (40_padding.md R101). -/
def execPadSha256 (s : State) : Host.Outcome State Fault Refusal := .next (padOp .sha256 s)

/-- `PAD.SHA512` (40_padding.md R102). -/
def execPadSha512 (s : State) : Host.Outcome State Fault Refusal := .next (padOp .sha512 s)

/-- `LDBLK.SHA1` (40_padding.md R106). -/
def execLdblkSha1 (s : State) : Host.Outcome State Fault Refusal := ldblkOp .sha1 s

/-- `LDBLK.SHA256` (40_padding.md R107). -/
def execLdblkSha256 (s : State) : Host.Outcome State Fault Refusal := ldblkOp .sha256 s

/-- `LDBLK.SHA512` (40_padding.md R108). -/
def execLdblkSha512 (s : State) : Host.Outcome State Fault Refusal := ldblkOp .sha512 s

end Sys2Proof.Machine
end

