-- ==== Sys2Proof/Machine/Schedule.lean ====
section
/-! DEFINITION. The word-schedule expander: `EXP.alg` (41_schedule.md R124 to R126, the index check R128). -/

namespace Sys2Proof.Machine

/-- `EXP.alg` at index `T`: outside `16..R-1` the fault (41_schedule.md R128); else `W[T]` is written and `T`
counts up, or the phase goes to LDV at `T = R - 1`. -/
def expOp (a : Alg) (s : State) : State :=
  if 16 ≤ s.t.toNat ∧ s.t.toNat ≤ a.rounds - 1 then
    let s1 : State := { s with w := s.w.setIfInBounds s.t.toNat (expandWord a s.w s.t.toNat) }
    if s.t.toNat = a.rounds - 1 then s1.goto .ldv s.bi s.t else s1.goto .exp s.bi (s.t + 1)
  else s.raiseFault

/-- `EXP.SHA1` (41_schedule.md R124). -/
def execExpSha1 (s : State) : Host.Outcome State Fault Refusal := .next (expOp .sha1 s)

/-- `EXP.SHA256` (41_schedule.md R125). -/
def execExpSha256 (s : State) : Host.Outcome State Fault Refusal := .next (expOp .sha256 s)

/-- `EXP.SHA512` (41_schedule.md R126). -/
def execExpSha512 (s : State) : Host.Outcome State Fault Refusal := .next (expOp .sha512 s)

end Sys2Proof.Machine
end

