-- ==== Sys2Proof/Machine/Dispatch.lean ====
section
/-! DEFINITION. One arm for each constructor of Instr. -/

namespace Sys2Proof.Machine

-- What each instruction does, by its own meaning.
def exec (i : Instr) (s : State) : Host.Outcome State Fault Refusal :=
  match i with
  | .nop => Sys2Proof.Machine.execNop s
  | .hashSha1 => Sys2Proof.Machine.execHashSha1 s
  | .hashSha256 => Sys2Proof.Machine.execHashSha256 s
  | .hashSha512 => Sys2Proof.Machine.execHashSha512 s
  | .padSha1 => Sys2Proof.Machine.execPadSha1 s
  | .padSha256 => Sys2Proof.Machine.execPadSha256 s
  | .padSha512 => Sys2Proof.Machine.execPadSha512 s
  | .initSha1 => Sys2Proof.Machine.execInitSha1 s
  | .initSha256 => Sys2Proof.Machine.execInitSha256 s
  | .initSha512 => Sys2Proof.Machine.execInitSha512 s
  | .ldblkSha1 => Sys2Proof.Machine.execLdblkSha1 s
  | .ldblkSha256 => Sys2Proof.Machine.execLdblkSha256 s
  | .ldblkSha512 => Sys2Proof.Machine.execLdblkSha512 s
  | .expSha1 => Sys2Proof.Machine.execExpSha1 s
  | .expSha256 => Sys2Proof.Machine.execExpSha256 s
  | .expSha512 => Sys2Proof.Machine.execExpSha512 s
  | .ldvSha1 => Sys2Proof.Machine.execLdvSha1 s
  | .ldvSha256 => Sys2Proof.Machine.execLdvSha256 s
  | .ldvSha512 => Sys2Proof.Machine.execLdvSha512 s
  | .rndSha1 => Sys2Proof.Machine.execRndSha1 s
  | .rndSha256 => Sys2Proof.Machine.execRndSha256 s
  | .rndSha512 => Sys2Proof.Machine.execRndSha512 s
  | .accumSha1 => Sys2Proof.Machine.execAccumSha1 s
  | .accumSha256 => Sys2Proof.Machine.execAccumSha256 s
  | .accumSha512 => Sys2Proof.Machine.execAccumSha512 s
  | .next a => Sys2Proof.Machine.execNext a s
  | .fin a => Sys2Proof.Machine.execFin a s
  | .rdCmd => Sys2Proof.Machine.execRdCmd s
  | .rdStatus => Sys2Proof.Machine.execRdStatus s
  | .rdMsgLen => Sys2Proof.Machine.execRdMsgLen s
  | .rdRsvd reg => Sys2Proof.Machine.execRdRsvd reg s
  | .rdDigest k => Sys2Proof.Machine.execRdDigest k s
  | .wrCmd data => Sys2Proof.Machine.execWrCmd data s
  | .wrMsgLen data => Sys2Proof.Machine.execWrMsgLen data s
  | .wrRo reg data => Sys2Proof.Machine.execWrRo reg data s
  | .wrb addr byte => Sys2Proof.Machine.execWrb addr byte s
  | .reset => Sys2Proof.Machine.execReset s

end Sys2Proof.Machine
end

