-- ==== Sys2Proof/Machine/Fetch.lean ====
section
/-! DEFINITION. What comes next: the agent whose turn it is, and the instruction it brings
(70_reset_and_hazards.md R240). -/

namespace Sys2Proof.Machine

/-- The next thing a step does, with the state in which it does it (the turn taken off the list). -/
inductive Fetch where
  /-- Run an instruction. -/
  | run (i : Instr) (s : State)
  /-- No instruction is run; the step leaves this state. -/
  | move (s : State)
  /-- The turn names no transaction. -/
  | stop (r : Refusal)
  deriving DecidableEq, Repr

/-- The format U code the sequencer decodes: the pair of `PHASE` and `ALG` (30_encoding.md R80). -/
def State.microCode (s : State) : BitVec 6 := Sys2Proof.microCode s.phase s.alg

/-- The sequencer's turn: its micro-operation; nothing in IDLE, DONE and FAULT (30_encoding.md R87); a reserved
code is the fault with cause 1 (R92). -/
def fetchMicro (s : State) : Fetch :=
  match decodeMicro s.microCode with
  | .instr i => .run i s
  | .reject .noOperation => .move s
  | .reject .reservedMicro => .move s.raiseFault
  | .reject .illegalCommand => .move s.raiseFault
  | .reject .noTransaction => .move s.raiseFault

/-- The host's turn: its transaction. -/
def fetchHost (x : HostTxn) (s : State) : Fetch :=
  match decodeTxn x with
  | .instr i => .run i s
  | .reject _ => .stop (.noTransaction x.code)

/-- The turn that is being taken leaves the list. -/
def State.popTurn (s : State) : State := { s with turns := s.turns.tail }

/-- Whose turn it is. With no turn listed the sequencer moves, so that "A busy core eventually performs its next
micro-operation" (70_reset_and_hazards.md R242). -/
def fetch (s : State) : Fetch :=
  match s.turns with
  | .host x :: _ => fetchHost x s.popTurn
  | .seq :: _ => fetchMicro s.popTurn
  | [] => fetchMicro s.popTurn

/-- The state with an instruction of the opcode table placed where the next step fetches it (assumption 12): a
micro-operation's code in `PHASE` and `ALG` with the sequencer to move, a transaction or the `CMD` write of a
command word as the host's next turn. -/
def placeWord (s : State) (nbits w : Nat) : State :=
  match tableWord nbits w with
  | some (.micro c) =>
    { s with phase := Phase.ofCode (microPhase c), alg := microAlg c, turns := .seq :: s.turns }
  | some (.txn x) => { s with turns := .host x :: s.turns }
  | some (.command d) => { s with turns := .host ⟨txnCode 1#2 0#4, 0, d⟩ :: s.turns }
  | none => s

end Sys2Proof.Machine
end

