-- ==== Sys2Proof/Machine/Step.lean ====
section
/-! DEFINITION. One atomic step (70_reset_and_hazards.md R240). -/

namespace Sys2Proof.Machine

/-- One step: the instruction that comes next, run; or, when none does, the state `fetch` leaves. -/
def step (s : State) : Host.Outcome State Fault Refusal :=
  match fetch s with
  | .run i s1 => exec i s1
  | .move s1 => .next s1
  | .stop r => .refused r

/-- The state with a word of the opcode table placed where `step` fetches its next instruction. -/
def State.withFetchWord (s : State) (nbits w : Nat) : State := placeWord s nbits w

end Sys2Proof.Machine
end

