-- ==== Sys2Proof/Machine/HostProgram.lean ====
section
/-! DEFINITION. Host programs: the lines of 30_encoding.md R93 and the pseudo-instructions of R94, each as the
transactions it stands for. `step` uses none of it. -/

namespace Sys2Proof

/-- The word of a command (30_encoding.md R86). -/
def Command.word : Command → BitVec 64
  | .nop => 0x00#64
  | .hash .sha1 => 0x11#64
  | .hash .sha256 => 0x12#64
  | .hash .sha512 => 0x13#64

namespace Machine

/-- One line of a host program (30_encoding.md R93, R94). `POLL` is a loop and has its own definition below. -/
inductive HostLine where
  | wr (reg : BitVec 4) (value : Word)
  | rd (reg : BitVec 4)
  | wrb (addr : Word) (byte : Byte)
  | reset
  | command (c : Command)
  | msg (bytes : List Byte)
  | digest
  deriving DecidableEq, Repr

/-- `WR reg, value` as a transaction. -/
def writeTxn (reg : BitVec 4) (value : Word) : HostTxn := ⟨txnCode 1#2 reg, 0, value⟩

/-- `RD reg` as a transaction. -/
def readTxn (reg : BitVec 4) : HostTxn := ⟨txnCode 0#2 reg, 0, 0⟩

/-- `WRB addr, byte` as a transaction. -/
def byteTxn (addr : Word) (byte : Byte) : HostTxn := ⟨txnCode 2#2 0#4, addr, byte.setWidth 64⟩

/-- `WRB i, b0`; `WRB i+1, b1`; ... -/
def byteTxns : Nat → List Byte → List HostTxn
  | _, [] => []
  | i, b :: bs => byteTxn (BitVec.ofNat 64 i) b :: byteTxns (i + 1) bs

/-- The transactions a line stands for. -/
def HostLine.txns : HostLine → List HostTxn
  | .wr reg value => [writeTxn reg value]
  | .rd reg => [readTxn reg]
  | .wrb addr byte => [byteTxn addr byte]
  | .reset => [⟨txnCode 3#2 0#4, 0, 0⟩]
  | .command c => [writeTxn 0#4 (c.word)]
  | .msg bytes => byteTxns 0 bytes ++ [writeTxn 2#4 (BitVec.ofNat 64 bytes.length)]
  | .digest => [readTxn 8#4, readTxn 9#4, readTxn 10#4, readTxn 11#4, readTxn 12#4, readTxn 13#4, readTxn 14#4,
      readTxn 15#4]

/-- `POLL` goes on while the `STATUS` value last returned has `BUSY = 1`, bit 0 (30_encoding.md R94). -/
def pollAgain (value : Word) : Bool := value.getLsbD 0

/-- `POLL`: the next transaction, given what the last `RD STATUS` of the loop returned (none yet: read). -/
def poll : Option Word → Option HostTxn
  | none => some (readTxn 1#4)
  | some value => if pollAgain value then some (readTxn 1#4) else none

/-- A program as the host's coming turns. -/
def hostTurns (p : List HostLine) : List Turn := (p.flatMap HostLine.txns).map Turn.host

end Machine

end Sys2Proof
end

