-- ==== Sys2Proof/Machine/Run.lean ====
section
/-! DEFINITION. The run as a function of the message (43_accumulator_driver.md R181), and the digest's bytes
(44_host_interface.md R205). `step` uses none of it: claims compare the sequencer's run with it. -/

namespace Sys2Proof.Machine

/-- The padded message of a message `m` of `l` bytes (20_memory.md R64, 40_padding.md R103). -/
def paddedMessage (a : Alg) (m : Nat → Byte) (l : Nat) (j : Nat) : Byte :=
  paddedByte a m l (padLen a l) (blockCount a l) j

/-- The schedule of a block after `n` expansion steps, from `W[0..15] = words(i)` (R181, 41_schedule.md R129). -/
def expanded (a : Alg) (pm : Nat → Byte) (i : Nat) : Nat → Vector Word 80
  | 0 => loadBlock a pm i (Vector.replicate 80 0)
  | n + 1 =>
    let w := expanded a pm i n
    w.setIfInBounds (16 + n) (expandWord a w (16 + n))

/-- `sched(i)`: the words `W[0..R-1]` of block `i` (R181). -/
def schedule (a : Alg) (pm : Nat → Byte) (i : Nat) : Vector Word 80 := expanded a pm i (a.rounds - 16)

/-- `V_t`: the working registers after `t` rounds from `V_0 = S` (R181). -/
def roundsFrom (a : Alg) (sched : Vector Word 80) (start : Vector Word 8) : Nat → Vector Word 8
  | 0 => start
  | t + 1 => roundOf a t (roundsFrom a sched start t) (wAt sched t)

/-- `comp(S, i)`: the rounds of block `i` and the addition into `S` (R181). -/
def compress (a : Alg) (pm : Nat → Byte) (start : Vector Word 8) (i : Nat) : Vector Word 8 :=
  fold a start (roundsFrom a (schedule a pm i) start a.rounds)

/-- `S_i`: the accumulator before block `i` (R181). -/
def chain (a : Alg) (pm : Nat → Byte) : Nat → Vector Word 8
  | 0 => initialAcc a
  | i + 1 => compress a pm (chain a pm i) i

/-- `Digest_alg(M) = S_NB` for the message of the `l` bytes `m 0`, ..., `m (l-1)` (R181). -/
def digest (a : Alg) (m : Nat → Byte) (l : Nat) : Vector Word 8 :=
  chain a (paddedMessage a m l) (blockCount a l)

/-- The micro-operations of one block: `2 * R - 12` (43_accumulator_driver.md R182). -/
def blockSteps (a : Alg) : Nat := 2 * a.rounds - 12

/-- The micro-operations of a run: `2 + NBLK * (2 * R - 12) + 1` (43_accumulator_driver.md R182). -/
def runSteps (a : Alg) (l : Nat) : Nat := 2 + blockCount a l * blockSteps a + 1

/-- Byte `j` of the digest as an external collaborator serialises it, `j = wb * i + k`
(44_host_interface.md R205): each word big-endian, in index order. -/
def digestByte (a : Alg) (d : Vector Word 8) (j : Nat) : Byte :=
  if h : j / a.wb < 8 then BitVec.ofNat 8 (d[j / a.wb].toNat / 2 ^ (8 * (a.wb - 1 - j % a.wb))) else 0

end Sys2Proof.Machine
end

