-- ==== Sys2Proof/Safety.lean ====
section
/-! DEFINITION. What a safe state is, in the terms claims use: the control invariant of the core, the turns a
host can take, how many micro-operations a run has left, and what "the run follows the digest function" means. -/

namespace Sys2Proof

/-- Phases in which `PADP` and `NBLK` hold the results of `PAD.alg` (43_accumulator_driver.md R184). -/
def Phase.padded : Phase → Bool
  | .init | .ldblk | .exp | .ldv | .rnd | .accum | .next | .fin => true
  | .idle | .pad | .done | .reservedB | .reservedC | .reservedD | .reservedE | .fault => false

/-- Phases of the block loop, where `BI` is the index of the block being processed (10_state.md R32). -/
def Phase.inBlock : Phase → Bool
  | .ldblk | .exp | .ldv | .rnd | .accum | .next | .fin => true
  | .idle | .pad | .init | .done | .reservedB | .reservedC | .reservedD | .reservedE | .fault => false

/-- Phases a core without a defect can be in: no reserved code (30_encoding.md R92) and not FAULT
(60_exceptions.md R218). -/
def Phase.legal : Phase → Bool
  | .idle | .pad | .init | .ldblk | .exp | .ldv | .rnd | .accum | .next | .fin | .done => true
  | .reservedB | .reservedC | .reservedD | .reservedE | .fault => false

namespace Machine

/-- The algorithm in `ALG`, if one was accepted since reset. -/
def State.algorithm (s : State) : Option Alg := Alg.ofCode s.alg

/-- The control invariant: what holds of every state reachable from power-on by the rules. -/
structure Inv (s : State) : Prop where
  /-- 00_scope.md R9. -/
  platform : s.cfg.wf = true
  /-- The memory is in canonical form and lists only addresses it has (20_memory.md R60). -/
  memory : Memory.wf s.msg
  capacity : ∀ c ∈ s.msg, c.1 < s.cfg.msgCap
  /-- `MSG_LEN` has `LENW` bits (10_state.md R38). -/
  length : s.msgLen.toNat < 2 ^ s.cfg.lenw
  /-- `BI` and `NBLK` fit in `LENW` bits (40_padding.md R104). -/
  biWidth : s.bi < 2 ^ s.cfg.lenw
  nblkWidth : s.nblk < 2 ^ s.cfg.lenw
  /-- `FATAL = 0` and no reserved phase (60_exceptions.md R218, 10_state.md R31). -/
  legal : s.phase.legal = true
  /-- Cause 1 is never recorded, codes 5 to 15 are never written (60_exceptions.md R210). -/
  err : s.err = 0#4 ∨ s.err = causeCmdIllegal ∨ s.err = causeBusyWrite ∨ s.err = causeLenRange
  /-- A run has an algorithm and a message the memory can hold (44_host_interface.md R197). -/
  accepted : s.phase ≠ .idle → s.alg ≠ 0#2
  fits : s.phase.busy = true → s.msgLen.toNat ≤ s.cfg.msgCap
  /-- `PADP` and `NBLK` are those of the message and the algorithm (40_padding.md R103). -/
  padding : ∀ a, s.algorithm = some a → s.phase.padded = true →
    s.padp.toNat = padLen a s.msgLen.toNat ∧ s.nblk = blockCount a s.msgLen.toNat
  /-- `BI <= NBLK - 1` (10_state.md R32). -/
  block : s.phase.inBlock = true → s.bi < s.nblk
  /-- The index is in range (41_schedule.md R128, 42_compress.md R154). -/
  expIndex : ∀ a, s.algorithm = some a → s.phase = .exp → 16 ≤ s.t.toNat ∧ s.t.toNat ≤ a.rounds - 1
  rndIndex : ∀ a, s.algorithm = some a → s.phase = .rnd → s.t.toNat ≤ a.rounds - 1
  /-- Under `SHA1` the words `ACC[5..7]` are 0 from `INIT` on (10_state.md R24). -/
  unusedAcc : s.alg = 1#2 → s.phase.inBlock = true ∨ s.phase = .done →
    s.acc[5] = 0 ∧ s.acc[6] = 0 ∧ s.acc[7] = 0

/-- A state a core can be in right after power-on (70_reset_and_hazards.md R232, 10_state.md R50): the registers
that R50 leaves unspecified hold any values of their widths, the model's own fields anything. -/
structure AtPowerOn (s : State) : Prop where
  phase : s.phase = .idle
  alg : s.alg = 0#2
  err : s.err = 0#4
  msgLen : s.msgLen = 0#64
  msg : s.msg = []
  biWidth : s.bi < 2 ^ s.cfg.lenw
  nblkWidth : s.nblk < 2 ^ s.cfg.lenw

/-- A turn a host can take: its descriptor names a transaction (30_encoding.md R88). -/
def Turn.issuable : Turn → Bool
  | .seq => true
  | .host x => (decodeTxn x).toOption.isSome

/-- The micro-operations a run has left before phase DONE (43_accumulator_driver.md R180, R182). -/
def stepsLeft (a : Alg) (s : State) : Nat :=
  match s.phase with
  | .pad => runSteps a s.msgLen.toNat
  | .init => 1 + s.nblk * blockSteps a + 1
  | .ldblk => (s.nblk - s.bi) * blockSteps a + 1
  | .exp => (a.rounds - s.t.toNat) + 1 + a.rounds + 2 + (s.nblk - s.bi - 1) * blockSteps a + 1
  | .ldv => 1 + a.rounds + 2 + (s.nblk - s.bi - 1) * blockSteps a + 1
  | .rnd => (a.rounds - s.t.toNat) + 2 + (s.nblk - s.bi - 1) * blockSteps a + 1
  | .accum => 2 + (s.nblk - s.bi - 1) * blockSteps a + 1
  | .next => 1 + (s.nblk - s.bi - 1) * blockSteps a + 1
  | .fin => 1
  | .idle | .done | .reservedB | .reservedC | .reservedD | .reservedE | .fault => 0

/-- The run that began with the acceptance of `HASH.alg` for the message of the `l` bytes `m` has so far computed
what the run as a function says (43_accumulator_driver.md R181): at every position of the sequencer the
accumulator, the schedule and the working registers are those of R181, and in DONE the accumulator is the
digest. -/
structure Follows (a : Alg) (m : Nat → Byte) (l : Nat) (s : State) : Prop where
  alg : s.alg = a.code
  message : s.phase.busy = true →
    s.msgLen.toNat = l ∧ l ≤ s.cfg.msgCap ∧ ∀ j, j < l → s.msgByte j = m j
  padding : s.phase.padded = true → s.padp.toNat = padLen a l ∧ s.nblk = blockCount a l
  block : s.phase.inBlock = true → s.bi < blockCount a l
  started : s.phase ≠ .idle ∧ s.phase.legal = true
  acc : (s.phase = .ldblk ∨ s.phase = .exp ∨ s.phase = .ldv ∨ s.phase = .rnd ∨ s.phase = .accum) →
    s.acc = chain a (paddedMessage a m l) s.bi
  expanding : s.phase = .exp → 16 ≤ s.t.toNat ∧ s.t.toNat ≤ a.rounds - 1 ∧
    ∀ k, k < s.t.toNat → wAt s.w k = wAt (schedule a (paddedMessage a m l) s.bi) k
  expanded : (s.phase = .ldv ∨ s.phase = .rnd) →
    ∀ k, k < a.rounds → wAt s.w k = wAt (schedule a (paddedMessage a m l) s.bi) k
  round : s.phase = .rnd → s.t.toNat ≤ a.rounds - 1 ∧ ∀ i : Fin 8, i.val < a.words →
    s.v[i] = (roundsFrom a (schedule a (paddedMessage a m l) s.bi) s.acc s.t.toNat)[i]
  rounded : s.phase = .accum → ∀ i : Fin 8, i.val < a.words →
    s.v[i] = (roundsFrom a (schedule a (paddedMessage a m l) s.bi) s.acc a.rounds)[i]
  folded : s.phase = .next → s.acc = chain a (paddedMessage a m l) (s.bi + 1)
  finished : (s.phase = .fin ∨ s.phase = .done) → s.acc = digest a m l

end Machine

end Sys2Proof
end

