-- ==== Sys2Proof/Certificates/Slice0/Obligations.lean ====
section
/-! DEFINITION. The statements about the model. Each is a rule of the spec, a whole-machine property its prose
states, or (where its docstring says so) a convention of the model. A result is stated with the whole next state,
so that it says what the instruction completes with and what it leaves unchanged; "`{ s with … }`" is the frame. -/

open Sys2Proof Sys2Proof.Machine

/-! ## Encodings -/

/-- Decoding an encoded well-formed instruction gives it back, with every operand at every value
(30_encoding.md R81 to R83, R86 to R88). -/
def Obligations.EncodedInstructionDecodesToItself : Prop :=
  ∀ i : Instr, i.wf = true → decode (encode i) = .instr i

/-- Every micro-operation code, phase 0x1 to 0x9 with an algorithm, decodes to the instruction whose code it is; the
codes R92 reserves are refused as reserved; and the codes of IDLE, DONE and FAULT select no operation (30_encoding.md R87, R92). -/
def Obligations.MicroOperationCodesAreExact : Prop :=
  ∀ c : BitVec 6,
    (1 ≤ c.toNat / 4 ∧ c.toNat / 4 ≤ 9 ∧ c.toNat % 4 ≠ 0 → ∃ i, decodeMicro c = .instr i ∧ encode i = .micro c) ∧
    (decodeMicro c = .reject .reservedMicro ↔
      (0xB ≤ c.toNat / 4 ∧ c.toNat / 4 ≤ 0xE) ∨ (1 ≤ c.toNat / 4 ∧ c.toNat / 4 ≤ 9 ∧ c.toNat % 4 = 0)) ∧
    (decodeMicro c = .reject .noOperation ↔ c.toNat / 4 = 0 ∨ c.toNat / 4 = 0xA ∨ c.toNat / 4 = 0xF)

/-- A descriptor is refused exactly when it is 0x21 to 0x2F or 0x31 to 0x3F; any other decodes to a well-formed
instruction whose code it is (30_encoding.md R88). -/
def Obligations.TransactionDescriptorsAreExact : Prop :=
  ∀ x : HostTxn,
    (decodeTxn x = .reject .noTransaction ↔
      (0x21 ≤ x.code.toNat ∧ x.code.toNat ≤ 0x2F) ∨ 0x31 ≤ x.code.toNat) ∧
    (¬((0x21 ≤ x.code.toNat ∧ x.code.toNat ≤ 0x2F) ∨ 0x31 ≤ x.code.toNat) →
      ∃ i, decodeTxn x = .instr i ∧ i.wf = true ∧ ∃ y, encode i = .txn y ∧ y.code = x.code)

/-- The words of 30_encoding.md R86 to R88, written out as numbers, decode to the instructions they stand for:
one or more of each family. -/
def Obligations.TableWordsDecode : Prop :=
  decode (.command 0x0000000000000000#64) = .instr .nop ∧
  decode (.command 0x0000000000000011#64) = .instr .hashSha1 ∧
  decode (.command 0x0000000000000013#64) = .instr .hashSha512 ∧
  decode (.micro 0b000101#6) = .instr .padSha1 ∧
  decode (.micro 0b001011#6) = .instr .initSha512 ∧
  decode (.micro 0b001110#6) = .instr .ldblkSha256 ∧
  decode (.micro 0b010001#6) = .instr .expSha1 ∧
  decode (.micro 0b010110#6) = .instr .ldvSha256 ∧
  decode (.micro 0b011011#6) = .instr .rndSha512 ∧
  decode (.micro 0b011101#6) = .instr .accumSha1 ∧
  decode (.micro 0b100010#6) = .instr (.next .sha256) ∧
  decode (.micro 0b100101#6) = .instr (.fin .sha1) ∧
  decode (.txn ⟨0x01#6, 0, 0⟩) = .instr .rdStatus ∧
  decode (.txn ⟨0x0F#6, 0, 0⟩) = .instr (.rdDigest 7#3) ∧
  decode (.txn ⟨0x12#6, 0, 56#64⟩) = .instr (.wrMsgLen 56#64) ∧
  decode (.txn ⟨0x20#6, 2#64, 0x63#64⟩) = .instr (.wrb 2#64 0x63#8) ∧
  decode (.txn ⟨0x30#6, 0, 0⟩) = .instr .reset

/-- An illegal command word: any non-zero bit in [63:8] or [3:2]; OP of 0x2 to 0xF; OP = HASH with ALGSEL = 0;
OP = NOP with ALGSEL non-zero. These are the words other than 0x00, 0x11, 0x12 and 0x13, and each is rejected with
cause 2, busy or not, changing nothing but `ERR`, and discarded in FAULT (30_encoding.md R90, 44_host_interface.md R202). -/
def Obligations.IllegalCommandWordIsRejected : Prop :=
  ∀ (w : Word) (s : State),
    ((w.extractLsb' 8 56 ≠ 0#56 ∨ w.extractLsb' 2 2 ≠ 0#2 ∨ 2 ≤ (w.extractLsb' 4 4).toNat ∨
        (w.extractLsb' 4 4 = 1#4 ∧ w.extractLsb' 0 2 = 0#2) ∨ (w.extractLsb' 4 4 = 0#4 ∧ w.extractLsb' 0 2 ≠ 0#2)) ↔
      (w ≠ 0x00#64 ∧ w ≠ 0x11#64 ∧ w ≠ 0x12#64 ∧ w ≠ 0x13#64)) ∧
    ((w ≠ 0x00#64 ∧ w ≠ 0x11#64 ∧ w ≠ 0x12#64 ∧ w ≠ 0x13#64) →
      (s.phase ≠ .fault → exec (.wrCmd w) s = .next { s with err := 2#4 }) ∧
      (s.phase = .fault → exec (.wrCmd w) s = .next s))

/-! ## Steps -/

/-- When the host's turn comes, the step runs the instruction its transaction decodes to, with the turn taken off
the list (30_encoding.md R88, 70_reset_and_hazards.md R240). Two things here are the model's own: that the turns are
a list in the state (assumption 8), and that a turn whose descriptor names no transaction is refused as
`noTransaction` (assumption 16; R88 says only that such a code cannot be issued). -/
def Obligations.StepRunsHostTransaction : Prop :=
  ∀ (s : State) (x : HostTxn) (rest : List Turn), s.turns = .host x :: rest →
    (∀ i, decodeTxn x = .instr i → step s = exec i { s with turns := rest }) ∧
    (∀ r, decodeTxn x = .reject r → step s = .refused (.noTransaction x.code))

/-- When the sequencer's turn comes, the step runs the micro-operation the pair of `PHASE` and `ALG` decodes to
(30_encoding.md R80, R87, 70_reset_and_hazards.md R240). That the turns are a list in the state, and that with no
turn listed the sequencer moves, is the model's own (assumption 8). -/
def Obligations.StepRunsMicroOperation : Prop :=
  ∀ (s : State) (i : Instr), decodeMicro (s.phase.code ++ s.alg) = .instr i →
    (s.turns = [] → step s = exec i s) ∧
    (∀ rest, s.turns = .seq :: rest → step s = exec i { s with turns := rest })

/-- In IDLE, DONE and FAULT the sequencer has no step: its turn changes nothing (30_encoding.md R87). That such a
turn is a step that leaves the state as it is, is the model's own (assumption 10), and so is the empty list of turns
that gives the sequencer the move (assumption 8). -/
def Obligations.QuiescentSequencerChangesNothing : Prop :=
  ∀ s : State, (s.phase = .idle ∨ s.phase = .done ∨ s.phase = .fault) →
    (s.turns = [] → step s = .next s) ∧
    (∀ rest, s.turns = .seq :: rest → step s = .next { s with turns := rest })

/-- A reserved micro-operation code, phase 0xB to 0xE or `ALG = 0` with phase 0x1 to 0x9, is the fault of R212
with cause 1: `PHASE <- FAULT`, `ERR <- 1`, and nothing else changes (30_encoding.md R92, 60_exceptions.md R212).
That the sequencer has a turn at all in phases 0xB to 0xE, where `BUSY = 0`, is the model's reading (assumption 14,
DEDUCED: 70_reset_and_hazards.md R240 names a step only while `BUSY = 1`); that with no turn listed the sequencer
moves is the model's own (assumption 8). -/
def Obligations.ReservedCodeTakesTheFault : Prop :=
  ∀ s : State,
    ((0xB ≤ s.phase.code.toNat ∧ s.phase.code.toNat ≤ 0xE) ∨
      (1 ≤ s.phase.code.toNat ∧ s.phase.code.toNat ≤ 9 ∧ s.alg = 0#2)) →
    (s.turns = [] → step s = .next { s with phase := .fault, err := 1#4 }) ∧
    (∀ rest, s.turns = .seq :: rest → step s = .next { s with phase := .fault, err := 1#4, turns := rest })

/-! ## Flags and reads -/

/-- `BUSY`, `DONE` and `FATAL` are functions of `PHASE`; at most one of them is 1, and in a phase that is not
reserved all three are 0 exactly in IDLE (10_state.md R34). -/
def Obligations.FlagsAreFunctionsOfPhase : Prop :=
  ∀ p : Phase,
    (p.busy = true ↔ 1 ≤ p.code.toNat ∧ p.code.toNat ≤ 9) ∧
    (p.isDone = true ↔ p.code.toNat = 0xA) ∧
    (p.fatal = true ↔ p.code.toNat = 0xF) ∧
    p.busy.toNat + p.isDone.toNat + p.fatal.toNat ≤ 1 ∧
    (¬(0xB ≤ p.code.toNat ∧ p.code.toNat ≤ 0xE) →
      (p.busy.toNat + p.isDone.toNat + p.fatal.toNat = 0 ↔ p.code.toNat = 0))

/-- `RD.STATUS`, code 0x01, returns `BUSY + 2 * DONE + 4 * FATAL + 16 * ALG + 256 * ERR` and has no side effect
(44_host_interface.md R203). -/
def Obligations.StatusReadReturnsItsFields : Prop :=
  (∀ a d, decodeTxn ⟨0x01#6, a, d⟩ = .instr .rdStatus) ∧
  ∀ s : State, exec .rdStatus s = .next { s with
    reply := some (BitVec.ofNat 64 (s.phase.busy.toNat + 2 * s.phase.isDone.toNat + 4 * s.phase.fatal.toNat
      + 16 * s.alg.toNat + 256 * s.err.toNat)) }

/-- `RD.DIGEST`, codes 0x08 to 0x0F, returns 0 unless `DONE = 1`; with `DONE = 1` it returns the accumulator word, 64 bits under
`SHA512` and bits [31:0] under `SHA1` and `SHA256`; under `SHA1` registers 5 to 7 read 0 in every state the core
can be in. No side effect (44_host_interface.md R204, 10_state.md R39). -/
def Obligations.DigestReadIsGatedByDone : Prop :=
  (∀ (i : BitVec 3) (a d : Word), decodeTxn ⟨BitVec.ofNat 6 (8 + i.toNat), a, d⟩ = .instr (.rdDigest i)) ∧
  ∀ (s : State) (i : BitVec 3),
    (s.phase ≠ .done → exec (.rdDigest i) s = .next { s with reply := some 0 }) ∧
    (s.phase = .done → s.alg = 3#2 → exec (.rdDigest i) s = .next { s with reply := some s.acc[i.toNat] }) ∧
    (s.phase = .done → s.alg = 1#2 ∨ s.alg = 2#2 →
      exec (.rdDigest i) s = .next { s with reply := some (BitVec.ofNat 64 (s.acc[i.toNat].toNat % 2 ^ 32)) }) ∧
    (Inv s → s.phase = .done → s.alg = 1#2 → 5 ≤ i.toNat →
      exec (.rdDigest i) s = .next { s with reply := some 0 })

/-- `RD.CMD`, code 0x00, and `RD.RSVD`, codes 0x03 to 0x07, return 0; `RD.MSG_LEN`, code 0x02, returns `MSG_LEN`; in
every condition and with no side effect (44_host_interface.md R206, R207). -/
def Obligations.OtherReadsReturnTheirRegister : Prop :=
  (∀ a d, decodeTxn ⟨0x00#6, a, d⟩ = .instr .rdCmd) ∧ (∀ a d, decodeTxn ⟨0x02#6, a, d⟩ = .instr .rdMsgLen) ∧
  (∀ (reg : BitVec 4) (a d : Word), 3 ≤ reg.toNat ∧ reg.toNat ≤ 7 →
    decodeTxn ⟨BitVec.ofNat 6 reg.toNat, a, d⟩ = .instr (.rdRsvd reg)) ∧
  ∀ s : State,
    exec .rdCmd s = .next { s with reply := some 0 } ∧
    (∀ reg : BitVec 4, 3 ≤ reg.toNat ∧ reg.toNat ≤ 7 → exec (.rdRsvd reg) s = .next { s with reply := some 0 }) ∧
    exec .rdMsgLen s = .next { s with reply := some s.msgLen }

/-- The host sees only `STATUS`, `MSG_LEN` and the gated digest: what any transaction leaves the host with is the
same in two states that agree on these, on the phase's busy, done and fatal flags and on what the host had,
whatever `MSG`, `W`, `V`, `PADP`, `NBLK`, `SEQ` and the accumulator of an unfinished run hold
(44_host_interface.md R207, 10_state.md R49). -/
def Obligations.HostCannotReadHiddenState : Prop :=
  ∀ (s1 s2 : State) (x : HostTxn) (i : Instr) (t1 t2 : State),
    s1.status = s2.status → s1.msgLen = s2.msgLen → (∀ k, s1.digestReg k = s2.digestReg k) → s1.reply = s2.reply →
    decodeTxn x = .instr i → exec i s1 = .next t1 → exec i s2 = .next t2 → t1.reply = t2.reply

/-! ## Writes and commands -/

/-- `NOP`, word 0x00, is accepted and does nothing in every phase, and never sets `ERR`, as a command and as the word
of a `CMD` write; it is the only `CMD` write accepted while busy, since any other is rejected with cause 2 or 3
(44_host_interface.md R201). -/
def Obligations.NopDoesNothing : Prop :=
  encode .nop = .command 0x0000000000000000#64 ∧
  ∀ s : State, exec .nop s = .next s ∧ exec (.wrCmd 0x0000000000000000#64) s = .next s ∧
    (s.phase.busy = true → ∀ data : Word, data ≠ 0 →
      ∃ c, (c = 2#4 ∨ c = 3#4) ∧ exec (.wrCmd data) s = .next { s with err := c })

/-- `WR.RO`, codes 0x11 and 0x13 to 0x1F: a `WR` to `STATUS`, to a reserved number or to a digest register is
discarded in every condition, `ERR` unchanged (44_host_interface.md R194). -/
def Obligations.ReadOnlyWriteIsDiscarded : Prop :=
  ∀ (s : State) (reg : BitVec 4) (a data : Word), reg.toNat = 1 ∨ 3 ≤ reg.toNat →
    decodeTxn ⟨BitVec.ofNat 6 (16 + reg.toNat), a, data⟩ = .instr (.wrRo reg data) ∧
    exec (.wrRo reg data) s = .next s

/-- `WR.MSG_LEN`, code 0x12: discarded in FAULT, rejected with cause 3 while busy, else `MSG_LEN` takes the low `LENW` bits
of the data (44_host_interface.md R192). -/
def Obligations.MsgLenWriteFollowsItsRule : Prop :=
  ∀ (s : State) (data : Word),
    (∀ a, decodeTxn ⟨0x12#6, a, data⟩ = .instr (.wrMsgLen data)) ∧
    (s.phase = .fault → exec (.wrMsgLen data) s = .next s) ∧
    (s.phase.busy = true → exec (.wrMsgLen data) s = .next { s with err := 3#4 }) ∧
    (s.phase ≠ .fault → s.phase.busy = false →
      ∃ t, exec (.wrMsgLen data) s = .next t ∧ t = { s with msgLen := t.msgLen } ∧
        (s.cfg.lenw ≤ 64 → t.msgLen.toNat = data.toNat % 2 ^ s.cfg.lenw))

/-- `WRB`, code 0x20, its byte in data bits [7:0]: discarded in FAULT; rejected with cause 3 while busy; else rejected with cause 4 at an address the
memory does not have; else the byte is written there and every other byte reads as before
(44_host_interface.md R193). That an address has 64 bits, and that one at or above `2^LENW`, which R193 does not admit,
is tested whole like any other, is the model's choice (assumption 15). -/
def Obligations.ByteWriteFollowsItsRule : Prop :=
  (∀ addr data : Word, decodeTxn ⟨0x20#6, addr, data⟩ = .instr (.wrb addr (data.setWidth 8))) ∧
  ∀ (s : State) (addr : Word) (byte : Byte),
    (s.phase = .fault → exec (.wrb addr byte) s = .next s) ∧
    (s.phase.busy = true → exec (.wrb addr byte) s = .next { s with err := 3#4 }) ∧
    (s.phase ≠ .fault → s.phase.busy = false → s.cfg.msgCap ≤ addr.toNat →
      exec (.wrb addr byte) s = .next { s with err := 4#4 }) ∧
    (s.phase ≠ .fault → s.phase.busy = false → addr.toNat < s.cfg.msgCap →
      ∃ t, exec (.wrb addr byte) s = .next t ∧ t = { s with msg := t.msg } ∧
        t.msgByte addr.toNat = byte ∧ ∀ a, a ≠ addr.toNat → t.msgByte a = s.msgByte a)

/-- What each command does in each phase. `HASH.alg`, words 0x11, 0x12 and 0x13: rejected with cause 3 while busy; else
rejected with cause 4 if `MSG_LEN > MSG_CAP`; else accepted: `ALG <- ALGSEL`, `ERR <- 0`, phase PAD, nothing else
changes, and every digest register reads 0 at once (44_host_interface.md R197). In FAULT it is discarded: that is the
table of R196, which the pseudocode of R197 leaves to R195 (assumption 18). `NOP` does nothing, and every other word
is rejected with cause 2, or discarded in FAULT (R196). -/
def Obligations.HashCommandFollowsItsRule : Prop :=
  encode .hashSha1 = .command 0x11#64 ∧ encode .hashSha256 = .command 0x12#64 ∧
  encode .hashSha512 = .command 0x13#64 ∧
  (∀ (s : State) (i : Instr) (algsel : BitVec 2),
    (i, algsel) = (.hashSha1, 1#2) ∨ (i, algsel) = (.hashSha256, 2#2) ∨ (i, algsel) = (.hashSha512, 3#2) →
    (s.phase = .fault → exec i s = .next s) ∧
    (s.phase.busy = true → exec i s = .next { s with err := 3#4 }) ∧
    (s.phase ≠ .fault → s.phase.busy = false → s.cfg.msgCap < s.msgLen.toNat →
      exec i s = .next { s with err := 4#4 }) ∧
    (s.phase ≠ .fault → s.phase.busy = false → s.msgLen.toNat ≤ s.cfg.msgCap →
      ∃ t, exec i s = .next t ∧ t = { s with alg := algsel, err := 0#4, phase := .pad } ∧
        t.phase.busy = true ∧ t.phase.isDone = false ∧ ∀ k, t.digestReg k = 0)) ∧
  (∀ s : State, exec .nop s = .next s) ∧
  (∀ (s : State) (w : Word), w ≠ 0x00#64 → w ≠ 0x11#64 → w ≠ 0x12#64 → w ≠ 0x13#64 →
    (s.phase ≠ .fault → exec (.wrCmd w) s = .next { s with err := 2#4 }) ∧
    (s.phase = .fault → exec (.wrCmd w) s = .next s))

/-- `WR.CMD`, code 0x10, dispatches on its data: discarded in FAULT; else 0x00 is `NOP`, 0x11, 0x12 and 0x13 are the `HASH`
commands, and every other word is rejected with cause 2, busy or not (44_host_interface.md R195). -/
def Obligations.CommandWriteDispatches : Prop :=
  ∀ (s : State) (data : Word),
    (∀ a, decodeTxn ⟨0x10#6, a, data⟩ = .instr (.wrCmd data)) ∧
    (s.phase = .fault → exec (.wrCmd data) s = .next s) ∧
    (s.phase ≠ .fault →
      (data = 0x00#64 → exec (.wrCmd data) s = exec .nop s) ∧
      (data = 0x11#64 → exec (.wrCmd data) s = exec .hashSha1 s) ∧
      (data = 0x12#64 → exec (.wrCmd data) s = exec .hashSha256 s) ∧
      (data = 0x13#64 → exec (.wrCmd data) s = exec .hashSha512 s) ∧
      (data ≠ 0x00#64 → data ≠ 0x11#64 → data ≠ 0x12#64 → data ≠ 0x13#64 →
        exec (.wrCmd data) s = .next { s with err := 2#4 }) ∧
      ∃ t, exec (.wrCmd data) s = .next t)

/-- In the faulted condition nothing changes the core but `RESET`: a step that is not a `RESET` leaves every
register and the memory as they were, `ERR` and phase FAULT included; only the turns and what the host holds move on
(60_exceptions.md R213, 44_host_interface.md R191). -/
def Obligations.FaultIsLatchedUntilReset : Prop :=
  ∀ s t : State, s.phase = .fault → step s = .next t →
    (∃ x rest, s.turns = .host x :: rest ∧ decodeTxn x = .instr .reset) ∨
    t = { s with turns := t.turns, reply := t.reply }

/-! ## Reset -/

/-- `RESET`, code 0x30, in every phase: `PHASE` IDLE, so all three flags 0, `ALG`, `ERR` and `MSG_LEN` 0, `MSG` unchanged.
`BI`, `T`, `PADP`, `NBLK`, `V`, `W` and `ACC` become unspecified: nothing is said of them but that `BI` and `NBLK`
keep within `LENW` bits (70_reset_and_hazards.md R230). -/
def Obligations.ResetTransactionFollowsItsRule : Prop :=
  (∀ a d, decodeTxn ⟨0x30#6, a, d⟩ = .instr .reset) ∧
  ∀ s : State, ∃ t, exec .reset s = .next t ∧
    t.phase = .idle ∧ t.alg = 0#2 ∧ t.err = 0#4 ∧ t.msgLen = 0#64 ∧
    t.phase.busy = false ∧ t.phase.isDone = false ∧ t.phase.fatal = false ∧
    t.msg = s.msg ∧ t.cfg = s.cfg ∧ t.chip = s.chip ∧ t.turns = s.turns ∧ t.reply = s.reply ∧
    t.bi < 2 ^ s.cfg.lenw ∧ t.nblk < 2 ^ s.cfg.lenw

/-- The power-on state of any core on any platform is a state after reset: IDLE, `ALG`, `ERR`, `MSG_LEN` 0; so no flag
is set, no message byte has a value and every digest register reads 0, whatever the registers without a reset value
hold (70_reset_and_hazards.md R232, 10_state.md R50). `State.reset` is the one on the platform the model chose
(assumption 2) with the values it chose (assumption 3). -/
def Obligations.PowerOnStateIsAsSpecified : Prop :=
  State.reset = State.powerOn ⟨64, 65536⟩ 0 ∧
  (∀ (c : Platform) (chip : Nat), (State.powerOn c chip).cfg = c ∧ AtPowerOn (State.powerOn c chip)) ∧
  ∀ s : State, AtPowerOn s → s.status = 0#64 ∧ (∀ i, s.digestReg i = 0#64) ∧
    exec .rdStatus s = .next { s with reply := some 0 } ∧
    ∀ a, Memory.read s.msg a = none ∧ s.msgByte a = Config.unwrittenByte s.chip a

/-! ## The padding stage -/

/-- `PAD.SHA1` and `PAD.SHA256`: `p = (64 - (L + 9) mod 64) mod 64`, `PADP <- p`, `NBLK <- (L + 9 + p) div 64`,
phase INIT, and nothing else; exact, so `PADP` holds `p` whole (40_padding.md R100, R101). -/
def Obligations.PadFollowsItsRuleAt64 : Prop :=
  encode .padSha1 = .micro 0x05#6 ∧ encode .padSha256 = .micro 0x06#6 ∧
  ∀ (s : State) (i : Instr), i = .padSha1 ∨ i = .padSha256 →
    ∃ t, exec i s = .next t ∧ t = { s with padp := t.padp, nblk := t.nblk, phase := .init } ∧
      t.padp.toNat = (64 - (s.msgLen.toNat + 9) % 64) % 64 ∧
      t.nblk = (s.msgLen.toNat + 9 + t.padp.toNat) / 64

/-- `PAD.SHA512`: `p = (128 - (L + 17) mod 128) mod 128`, `PADP <- p`, `NBLK <- (L + 17 + p) div 128`, phase INIT,
and nothing else (40_padding.md R102). -/
def Obligations.PadFollowsItsRuleAt128 : Prop :=
  encode .padSha512 = .micro 0x07#6 ∧
  ∀ s : State,
    ∃ t, exec .padSha512 s = .next t ∧ t = { s with padp := t.padp, nblk := t.nblk, phase := .init } ∧
      t.padp.toNat = (128 - (s.msgLen.toNat + 17) % 128) % 128 ∧
      t.nblk = (s.msgLen.toNat + 17 + t.padp.toNat) / 128

/-- `p` is the minimal non-negative number that fills up to a block multiple, equivalently the closed formula, which
the algorithms' parameters make `(64 - (L + 9) mod 64) mod 64` or `(128 - (L + 17) mod 128) mod 128`; and `NB` is an
exact division (40_padding.md R103). -/
def Obligations.PaddingLengthIsMinimal : Prop :=
  ∀ (a : Alg) (l : Nat),
    (l + 1 + padLen a l + a.lfb) % a.bs = 0 ∧
    (∀ q, (l + 1 + q + a.lfb) % a.bs = 0 → padLen a l ≤ q) ∧
    padLen a l = (a.bs - (l + 1 + a.lfb) % a.bs) % a.bs ∧
    (a = .sha1 ∨ a = .sha256 → padLen a l = (64 - (l + 9) % 64) % 64) ∧
    (a = .sha512 → padLen a l = (128 - (l + 17) % 128) % 128) ∧
    blockCount a l = (l + 1 + padLen a l + a.lfb) / a.bs ∧
    blockCount a l * a.bs = l + 1 + padLen a l + a.lfb

/-- The bounds and the edge cases of the padding: `p <= bs - 1`; `p = 0` exactly when the sentinel and the length
field already reach a block boundary, `L mod 64 = 55` or `L mod 128 = 111`; `p = bs - 1` exactly at
`L mod 64 = 56` or `L mod 128 = 112`; `NB >= 1`, `NB = (L + lfb) div bs + 1`, `NB = 1` exactly when
`L <= bs - 1 - lfb`; and `NB`, with every smaller block index, fits in `LENW` bits (40_padding.md R104). -/
def Obligations.PaddingEdgeCases : Prop :=
  ∀ (a : Alg) (l : Nat),
    padLen a l ≤ a.bs - 1 ∧
    (padLen a l = 0 ↔ (l + 1 + a.lfb) % a.bs = 0) ∧
    ((a = .sha1 ∨ a = .sha256) → (padLen a l = 0 ↔ l % 64 = 55) ∧ (padLen a l = 63 ↔ l % 64 = 56)) ∧
    (a = .sha512 → (padLen a l = 0 ↔ l % 128 = 111) ∧ (padLen a l = 127 ↔ l % 128 = 112)) ∧
    1 ≤ blockCount a l ∧ blockCount a l = (l + a.lfb) / a.bs + 1 ∧
    (blockCount a l = 1 ↔ l ≤ a.bs - 1 - a.lfb) ∧
    (∀ lenw, 1 ≤ lenw → l < 2 ^ lenw → blockCount a l < 2 ^ lenw)

/-- `PMRead(j)` once `PAD.alg` has run, for every `j` below `NBLK * bs`: (a) the message's bytes, (b) 0x80, (c) `p`
zero bytes, (d) the bytes of `8 * L`, big-endian, wherever it fits the field (20_memory.md R64). -/
def Obligations.PaddedMessageContract : Prop :=
  ∀ (s : State) (a : Alg) (j : Nat),
    s.padp.toNat = padLen a s.msgLen.toNat → s.nblk = blockCount a s.msgLen.toNat → j < s.nblk * a.bs →
    (j < s.msgLen.toNat → s.pmRead a j = s.msgByte j) ∧
    (j = s.msgLen.toNat → s.pmRead a j = 0x80#8) ∧
    (s.msgLen.toNat < j → j < s.msgLen.toNat + 1 + s.padp.toNat → s.pmRead a j = 0x00#8) ∧
    (s.msgLen.toNat + 1 + s.padp.toNat ≤ j →
      j - (s.msgLen.toNat + 1 + s.padp.toNat) < a.lfb ∧
      (8 * s.msgLen.toNat < 2 ^ (8 * a.lfb) → (s.pmRead a j).toNat =
        (8 * s.msgLen.toNat / 2 ^ (8 * (a.lfb - 1 - (j - (s.msgLen.toNat + 1 + s.padp.toNat))))) % 256))

/-- The last `lfb` bytes of the padded message, read as a big-endian number, are `8 * L`, wherever it fits
(20_memory.md R65). -/
def Obligations.TrailerDecodesToBitLength : Prop :=
  ∀ (a : Alg) (m : Nat → Byte) (l : Nat), 8 * l < 2 ^ (8 * a.lfb) →
    (List.range a.lfb).foldl
      (fun n k => n * 256 + (paddedMessage a m l (blockCount a l * a.bs - a.lfb + k)).toNat) 0 = 8 * l

/-- `LDBLK.SHA1` and `LDBLK.SHA256`, wherever the memory can hold the message: `W[0..15]` are the sixteen
big-endian words of block `BI`, the other words keep their values, `T` is 16, phase EXP, and nothing else changes
(40_padding.md R106, R107). -/
def Obligations.BlockLoadAt32 : Prop :=
  encode .ldblkSha1 = .micro 0x0D#6 ∧ encode .ldblkSha256 = .micro 0x0E#6 ∧
  ∀ (s : State) (i : Instr) (a : Alg), (i, a) = (.ldblkSha1, .sha1) ∨ (i, a) = (.ldblkSha256, .sha256) →
    s.msgLen.toNat ≤ s.cfg.msgCap →
    ∃ t, exec i s = .next t ∧ t = { s with w := t.w, phase := .exp, t := 16#7 } ∧
      ∀ j : Fin 80,
        (j.val < 16 → t.w[j].toNat =
          (s.pmRead a (s.bi * 64 + 4 * j)).toNat * 2 ^ 24 + (s.pmRead a (s.bi * 64 + 4 * j + 1)).toNat * 2 ^ 16
          + (s.pmRead a (s.bi * 64 + 4 * j + 2)).toNat * 2 ^ 8 + (s.pmRead a (s.bi * 64 + 4 * j + 3)).toNat) ∧
        (16 ≤ j.val → t.w[j] = s.w[j])

/-- `LDBLK.SHA512`, wherever the memory can hold the message: as at 32 bits, with blocks of 128 bytes and words of
eight (40_padding.md R108). -/
def Obligations.BlockLoadAt64 : Prop :=
  encode .ldblkSha512 = .micro 0x0F#6 ∧
  ∀ s : State, s.msgLen.toNat ≤ s.cfg.msgCap →
    ∃ t, exec .ldblkSha512 s = .next t ∧ t = { s with w := t.w, phase := .exp, t := 16#7 } ∧
      ∀ j : Fin 80,
        (j.val < 16 → t.w[j].toNat =
          (s.pmRead .sha512 (s.bi * 128 + 8 * j)).toNat * 2 ^ 56
          + (s.pmRead .sha512 (s.bi * 128 + 8 * j + 1)).toNat * 2 ^ 48
          + (s.pmRead .sha512 (s.bi * 128 + 8 * j + 2)).toNat * 2 ^ 40
          + (s.pmRead .sha512 (s.bi * 128 + 8 * j + 3)).toNat * 2 ^ 32
          + (s.pmRead .sha512 (s.bi * 128 + 8 * j + 4)).toNat * 2 ^ 24
          + (s.pmRead .sha512 (s.bi * 128 + 8 * j + 5)).toNat * 2 ^ 16
          + (s.pmRead .sha512 (s.bi * 128 + 8 * j + 6)).toNat * 2 ^ 8
          + (s.pmRead .sha512 (s.bi * 128 + 8 * j + 7)).toNat) ∧
        (16 ≤ j.val → t.w[j] = s.w[j])

/-- `LDBLK.alg` stops, with the model's fault, exactly when the block takes a message byte at an address the
message memory does not have; such addresses "are never read" (20_memory.md R61). The stop is the model's own
(the fault `msgOutside`, assumption 13). -/
def Obligations.BlockLoadStopsOnlyOutsideTheMemory : Prop :=
  ∀ (s : State) (i : Instr) (a : Alg),
    (i, a) = (.ldblkSha1, .sha1) ∨ (i, a) = (.ldblkSha256, .sha256) ∨ (i, a) = (.ldblkSha512, .sha512) →
    ((∃ addr, exec i s = .fault (.msgOutside addr)) ↔
      ∃ j, s.bi * a.bs ≤ j ∧ j < s.bi * a.bs + a.bs ∧ j < s.nblk * a.bs ∧ j < s.msgLen.toNat ∧ s.cfg.msgCap ≤ j) ∧
    ((∃ addr, exec i s = .fault (.msgOutside addr)) ∨ ∃ t, exec i s = .next t)

/-! ## The schedule -/

/-- `EXP.SHA1` at index `T`: the rotated XOR of four earlier words is written to `W[T]`, the other words keep
their values, `T` counts up or the phase goes to LDV at 79; outside 16 to 79 the fault of R212, and nothing else
changes (41_schedule.md R124). -/
def Obligations.ExpandSha1FollowsItsRule : Prop :=
  encode .expSha1 = .micro 0x11#6 ∧
  ∀ s : State,
    (16 ≤ s.t.toNat ∧ s.t.toNat ≤ 79 →
      ∃ t, exec .expSha1 s = .next t ∧ t = { s with w := t.w, phase := t.phase, t := t.t } ∧
        wAt t.w s.t.toNat =
          (((wAt s.w (s.t.toNat - 3)).setWidth 32 ^^^ (wAt s.w (s.t.toNat - 8)).setWidth 32
            ^^^ (wAt s.w (s.t.toNat - 14)).setWidth 32
            ^^^ (wAt s.w (s.t.toNat - 16)).setWidth 32 : BitVec 32).rotateLeft 1).setWidth 64 ∧
        (∀ k, k ≠ s.t.toNat → wAt t.w k = wAt s.w k) ∧
        (s.t.toNat = 79 → t.phase = .ldv ∧ t.t = s.t) ∧
        (s.t.toNat ≠ 79 → t.phase = .exp ∧ t.t.toNat = s.t.toNat + 1)) ∧
    (¬(16 ≤ s.t.toNat ∧ s.t.toNat ≤ 79) → exec .expSha1 s = .next { s with phase := .fault, err := 1#4 })

/-- `EXP.SHA256` at index `T` (41_schedule.md R125, the sigmas of R121 and R122): as R124, with the sum of four
terms modulo 2^32 and the range 16 to 63. -/
def Obligations.ExpandSha256FollowsItsRule : Prop :=
  encode .expSha256 = .micro 0x12#6 ∧
  ∀ s : State,
    (16 ≤ s.t.toNat ∧ s.t.toNat ≤ 63 →
      ∃ t, exec .expSha256 s = .next t ∧ t = { s with w := t.w, phase := t.phase, t := t.t } ∧
        (∀ w2 w7 w15 w16 : BitVec 32,
          w2 = (wAt s.w (s.t.toNat - 2)).setWidth 32 → w7 = (wAt s.w (s.t.toNat - 7)).setWidth 32 →
          w15 = (wAt s.w (s.t.toNat - 15)).setWidth 32 → w16 = (wAt s.w (s.t.toNat - 16)).setWidth 32 →
          wAt t.w s.t.toNat =
            ((w2.rotateRight 17 ^^^ w2.rotateRight 19 ^^^ w2 >>> 10) + w7
              + (w15.rotateRight 7 ^^^ w15.rotateRight 18 ^^^ w15 >>> 3) + w16).setWidth 64) ∧
        (∀ k, k ≠ s.t.toNat → wAt t.w k = wAt s.w k) ∧
        (s.t.toNat = 63 → t.phase = .ldv ∧ t.t = s.t) ∧
        (s.t.toNat ≠ 63 → t.phase = .exp ∧ t.t.toNat = s.t.toNat + 1)) ∧
    (¬(16 ≤ s.t.toNat ∧ s.t.toNat ≤ 63) → exec .expSha256 s = .next { s with phase := .fault, err := 1#4 })

/-- `EXP.SHA512` at index `T` (41_schedule.md R126, the sigmas of R123 and R127): as R125 at 64 bits, with the
range 16 to 79. -/
def Obligations.ExpandSha512FollowsItsRule : Prop :=
  encode .expSha512 = .micro 0x13#6 ∧
  ∀ s : State,
    (16 ≤ s.t.toNat ∧ s.t.toNat ≤ 79 →
      ∃ t, exec .expSha512 s = .next t ∧ t = { s with w := t.w, phase := t.phase, t := t.t } ∧
        (∀ w2 w15 : BitVec 64, w2 = wAt s.w (s.t.toNat - 2) → w15 = wAt s.w (s.t.toNat - 15) →
          wAt t.w s.t.toNat =
            (w2.rotateRight 19 ^^^ w2.rotateRight 61 ^^^ w2 >>> 6) + wAt s.w (s.t.toNat - 7)
              + (w15.rotateRight 1 ^^^ w15.rotateRight 8 ^^^ w15 >>> 7) + wAt s.w (s.t.toNat - 16)) ∧
        (∀ k, k ≠ s.t.toNat → wAt t.w k = wAt s.w k) ∧
        (s.t.toNat = 79 → t.phase = .ldv ∧ t.t = s.t) ∧
        (s.t.toNat ≠ 79 → t.phase = .exp ∧ t.t.toNat = s.t.toNat + 1)) ∧
    (¬(16 ≤ s.t.toNat ∧ s.t.toNat ≤ 79) → exec .expSha512 s = .next { s with phase := .fault, err := 1#4 })

/-! ## The rounds -/

/-- The Boolean functions bit by bit: `Ch` chooses, `Maj` takes the majority, `Parity` is the odd count; and the
two spellings agree: `f_SHA1` is `Ch`, `Parity`, `Maj`, `Parity` in its four ranges (42_compress.md R143 to R146,
R155). -/
def Obligations.BooleanFunctionsBitByBit : Prop :=
  (∀ (w k : Nat) (x y z : BitVec w),
    (ch x y z).getLsbD k = (if x.getLsbD k then y.getLsbD k else z.getLsbD k) ∧
    ((maj x y z).getLsbD k = true ↔
      2 ≤ (x.getLsbD k).toNat + (y.getLsbD k).toNat + (z.getLsbD k).toNat) ∧
    ((parity x y z).getLsbD k = true ↔
      ((x.getLsbD k).toNat + (y.getLsbD k).toNat + (z.getLsbD k).toNat) % 2 = 1)) ∧
  (∀ (t : Nat) (b c d : BitVec 32), t ≤ 79 →
    (t ≤ 19 → fSha1 t b c d = ch b c d) ∧
    (20 ≤ t ∧ t ≤ 39 ∨ 60 ≤ t → fSha1 t b c d = parity b c d) ∧
    (40 ≤ t ∧ t ≤ 59 → fSha1 t b c d = maj b c d))

/-- The rotations lose no bit: at every amount strictly between 0 and the width, 0 and all ones are fixed, left is
right by the complement, and bit `k` of a right rotation is bit `(k + n) mod w` (00_scope.md R11,
42_compress.md R161). -/
def Obligations.RotationsLoseNoBit : Prop :=
  ∀ (w n : Nat) (x : BitVec w), 0 < n → n < w →
    rotr (0#w) n = 0#w ∧ rotr (BitVec.allOnes w) n = BitVec.allOnes w ∧
    rotl x n = rotr x (w - n) ∧
    (∀ k, k < w → (rotr x n).getLsbD k = x.getLsbD ((k + n) % w)) ∧
    rotl (rotr x n) n = x

/-- `LDV.alg`: the working registers `0..n-1` take the accumulator's words at the algorithm's width, the others are
not written, `T` is 0, phase RND, and nothing else changes (42_compress.md R140 to R142). -/
def Obligations.WorkingRegistersLoadFromAccumulator : Prop :=
  encode .ldvSha1 = .micro 0x15#6 ∧ encode .ldvSha256 = .micro 0x16#6 ∧ encode .ldvSha512 = .micro 0x17#6 ∧
  ∀ s : State,
    (∃ t, exec .ldvSha1 s = .next t ∧ t = { s with v := t.v, phase := .rnd, t := 0#7 } ∧
      ∀ i : Fin 8, (i.val < 5 → t.v[i].toNat = s.acc[i].toNat % 2 ^ 32) ∧ (5 ≤ i.val → t.v[i] = s.v[i])) ∧
    (∃ t, exec .ldvSha256 s = .next t ∧ t = { s with v := t.v, phase := .rnd, t := 0#7 } ∧
      ∀ i : Fin 8, t.v[i].toNat = s.acc[i].toNat % 2 ^ 32) ∧
    (∃ t, exec .ldvSha512 s = .next t ∧ t = { s with v := t.v, phase := .rnd, t := 0#7 } ∧
      ∀ i : Fin 8, t.v[i] = s.acc[i])

/-- `RND.SHA1` at index `T` (42_compress.md R150): `temp` with `f` and `K` of `T`'s range of 20 into `A`, the
others shifted with `B` rotated by 30, `V[5..7]` not written, `T` counting up or the phase going to ACCUM at 79;
above 79 the fault of R212. -/
def Obligations.RoundSha1FollowsItsRule : Prop :=
  encode .rndSha1 = .micro 0x19#6 ∧
  ∀ (s : State) (a b c d e f k wt : BitVec 32),
    a = s.v[0].setWidth 32 → b = s.v[1].setWidth 32 → c = s.v[2].setWidth 32 → d = s.v[3].setWidth 32 →
    e = s.v[4].setWidth 32 → wt = (wAt s.w s.t.toNat).setWidth 32 →
    f = (if s.t.toNat ≤ 19 then (b &&& c) ||| (~~~b &&& d)
      else if s.t.toNat ≤ 39 then b ^^^ c ^^^ d
      else if s.t.toNat ≤ 59 then (b &&& c) ||| (b &&& d) ||| (c &&& d)
      else b ^^^ c ^^^ d) →
    k = (if s.t.toNat ≤ 19 then 0x5A827999#32 else if s.t.toNat ≤ 39 then 0x6ED9EBA1#32
      else if s.t.toNat ≤ 59 then 0x8F1BBCDC#32 else 0xCA62C1D6#32) →
    (s.t.toNat ≤ 79 →
      ∃ t, exec .rndSha1 s = .next t ∧ t = { s with v := t.v, phase := t.phase, t := t.t } ∧
        t.v = #v[(a.rotateLeft 5 + f + e + wt + k).setWidth 64, a.setWidth 64, (b.rotateLeft 30).setWidth 64,
          c.setWidth 64, d.setWidth 64, s.v[5], s.v[6], s.v[7]] ∧
        (s.t.toNat = 79 → t.phase = .accum ∧ t.t = s.t) ∧
        (s.t.toNat ≠ 79 → t.phase = .rnd ∧ t.t.toNat = s.t.toNat + 1)) ∧
    (79 < s.t.toNat → exec .rndSha1 s = .next { s with phase := .fault, err := 1#4 })

/-- The table of 10_state.md R43, `K_SHA256(0)` to `K_SHA256(63)`, written out from the spec for the statement below
and not taken from the model's own. -/
def Sys2Proof.statedK256 : List (BitVec 32) :=
  [0x428A2F98#32, 0x71374491#32, 0xB5C0FBCF#32, 0xE9B5DBA5#32, 0x3956C25B#32, 0x59F111F1#32, 0x923F82A4#32, 0xAB1C5ED5#32,
   0xD807AA98#32, 0x12835B01#32, 0x243185BE#32, 0x550C7DC3#32, 0x72BE5D74#32, 0x80DEB1FE#32, 0x9BDC06A7#32, 0xC19BF174#32] ++
  [0xE49B69C1#32, 0xEFBE4786#32, 0x0FC19DC6#32, 0x240CA1CC#32, 0x2DE92C6F#32, 0x4A7484AA#32, 0x5CB0A9DC#32, 0x76F988DA#32,
   0x983E5152#32, 0xA831C66D#32, 0xB00327C8#32, 0xBF597FC7#32, 0xC6E00BF3#32, 0xD5A79147#32, 0x06CA6351#32, 0x14292967#32] ++
  [0x27B70A85#32, 0x2E1B2138#32, 0x4D2C6DFC#32, 0x53380D13#32, 0x650A7354#32, 0x766A0ABB#32, 0x81C2C92E#32, 0x92722C85#32,
   0xA2BFE8A1#32, 0xA81A664B#32, 0xC24B8B70#32, 0xC76C51A3#32, 0xD192E819#32, 0xD6990624#32, 0xF40E3585#32, 0x106AA070#32] ++
  [0x19A4C116#32, 0x1E376C08#32, 0x2748774C#32, 0x34B0BCB5#32, 0x391C0CB3#32, 0x4ED8AA4A#32, 0x5B9CCA4F#32, 0x682E6FF3#32,
   0x748F82EE#32, 0x78A5636F#32, 0x84C87814#32, 0x8CC70208#32, 0x90BEFFFA#32, 0xA4506CEB#32, 0xBEF9A3F7#32, 0xC67178F2#32]

/-- The table of 10_state.md R45, `K_SHA512(0)` to `K_SHA512(79)`, written out in the same way. -/
def Sys2Proof.statedK512 : List (BitVec 64) :=
  [0x428A2F98D728AE22#64, 0x7137449123EF65CD#64, 0xB5C0FBCFEC4D3B2F#64, 0xE9B5DBA58189DBBC#64,
   0x3956C25BF348B538#64, 0x59F111F1B605D019#64, 0x923F82A4AF194F9B#64, 0xAB1C5ED5DA6D8118#64,
   0xD807AA98A3030242#64, 0x12835B0145706FBE#64, 0x243185BE4EE4B28C#64, 0x550C7DC3D5FFB4E2#64,
   0x72BE5D74F27B896F#64, 0x80DEB1FE3B1696B1#64, 0x9BDC06A725C71235#64, 0xC19BF174CF692694#64] ++
  [0xE49B69C19EF14AD2#64, 0xEFBE4786384F25E3#64, 0x0FC19DC68B8CD5B5#64, 0x240CA1CC77AC9C65#64,
   0x2DE92C6F592B0275#64, 0x4A7484AA6EA6E483#64, 0x5CB0A9DCBD41FBD4#64, 0x76F988DA831153B5#64,
   0x983E5152EE66DFAB#64, 0xA831C66D2DB43210#64, 0xB00327C898FB213F#64, 0xBF597FC7BEEF0EE4#64,
   0xC6E00BF33DA88FC2#64, 0xD5A79147930AA725#64, 0x06CA6351E003826F#64, 0x142929670A0E6E70#64] ++
  [0x27B70A8546D22FFC#64, 0x2E1B21385C26C926#64, 0x4D2C6DFC5AC42AED#64, 0x53380D139D95B3DF#64,
   0x650A73548BAF63DE#64, 0x766A0ABB3C77B2A8#64, 0x81C2C92E47EDAEE6#64, 0x92722C851482353B#64,
   0xA2BFE8A14CF10364#64, 0xA81A664BBC423001#64, 0xC24B8B70D0F89791#64, 0xC76C51A30654BE30#64,
   0xD192E819D6EF5218#64, 0xD69906245565A910#64, 0xF40E35855771202A#64, 0x106AA07032BBD1B8#64] ++
  [0x19A4C116B8D2D0C8#64, 0x1E376C085141AB53#64, 0x2748774CDF8EEB99#64, 0x34B0BCB5E19B48A8#64,
   0x391C0CB3C5C95A63#64, 0x4ED8AA4AE3418ACB#64, 0x5B9CCA4F7763E373#64, 0x682E6FF3D6B2B8A3#64,
   0x748F82EE5DEFB2FC#64, 0x78A5636F43172F60#64, 0x84C87814A1F0AB72#64, 0x8CC702081A6439EC#64,
   0x90BEFFFA23631E28#64, 0xA4506CEBDE82BDE9#64, 0xBEF9A3F7B2C67915#64, 0xC67178F2E372532B#64] ++
  [0xCA273ECEEA26619C#64, 0xD186B8C721C0C207#64, 0xEADA7DD6CDE0EB1E#64, 0xF57D4F7FEE6ED178#64,
   0x06F067AA72176FBA#64, 0x0A637DC5A2C898A6#64, 0x113F9804BEF90DAE#64, 0x1B710B35131C471B#64,
   0x28DB77F523047D84#64, 0x32CAAB7B40C72493#64, 0x3C9EBE0A15C9BEBC#64, 0x431D67C49C100D4C#64,
   0x4CC5D4BECB3E42B6#64, 0x597F299CFC657E2A#64, 0x5FCB6FAB3AD6FAEC#64, 0x6C44198C4A475817#64]

/-- `RND.SHA256` at index `T` (42_compress.md R151, the sigmas of R147 and R148, the constant of 10_state.md R43): `temp1 + temp2` into `A`,
`D + temp1` into `E`, the others shifted; `T` counts up or the phase goes to ACCUM at 63; above 63 the fault. -/
def Obligations.RoundSha256FollowsItsRule : Prop :=
  encode .rndSha256 = .micro 0x1A#6 ∧
  ∀ (s : State) (a b c d e f g h t1 t2 wt k : BitVec 32),
    a = s.v[0].setWidth 32 → b = s.v[1].setWidth 32 → c = s.v[2].setWidth 32 → d = s.v[3].setWidth 32 →
    e = s.v[4].setWidth 32 → f = s.v[5].setWidth 32 → g = s.v[6].setWidth 32 → h = s.v[7].setWidth 32 →
    wt = (wAt s.w s.t.toNat).setWidth 32 →
    k = statedK256.getD s.t.toNat 0 →
    t1 = h + (e.rotateRight 6 ^^^ e.rotateRight 11 ^^^ e.rotateRight 25) + ((e &&& f) ^^^ (~~~e &&& g))
      + k + wt →
    t2 = (a.rotateRight 2 ^^^ a.rotateRight 13 ^^^ a.rotateRight 22) + ((a &&& b) ^^^ (a &&& c) ^^^ (b &&& c)) →
    (s.t.toNat ≤ 63 →
      ∃ t, exec .rndSha256 s = .next t ∧ t = { s with v := t.v, phase := t.phase, t := t.t } ∧
        t.v = #v[(t1 + t2).setWidth 64, a.setWidth 64, b.setWidth 64, c.setWidth 64, (d + t1).setWidth 64,
          e.setWidth 64, f.setWidth 64, g.setWidth 64] ∧
        (s.t.toNat = 63 → t.phase = .accum ∧ t.t = s.t) ∧
        (s.t.toNat ≠ 63 → t.phase = .rnd ∧ t.t.toNat = s.t.toNat + 1)) ∧
    (63 < s.t.toNat → exec .rndSha256 s = .next { s with phase := .fault, err := 1#4 })

/-- `RND.SHA512` at index `T` (42_compress.md R152, the sigmas of R149 and R153, the constant of 10_state.md R45): as
R151 at 64 bits, to index 79. -/
def Obligations.RoundSha512FollowsItsRule : Prop :=
  encode .rndSha512 = .micro 0x1B#6 ∧
  ∀ (s : State) (a b c d e f g h t1 t2 k : BitVec 64),
    #v[a, b, c, d, e, f, g, h] = s.v →
    k = statedK512.getD s.t.toNat 0 →
    t1 = h + (e.rotateRight 14 ^^^ e.rotateRight 18 ^^^ e.rotateRight 41) + ((e &&& f) ^^^ (~~~e &&& g))
      + k + wAt s.w s.t.toNat →
    t2 = (a.rotateRight 28 ^^^ a.rotateRight 34 ^^^ a.rotateRight 39) + ((a &&& b) ^^^ (a &&& c) ^^^ (b &&& c)) →
    (s.t.toNat ≤ 79 →
      ∃ t, exec .rndSha512 s = .next t ∧ t = { s with v := t.v, phase := t.phase, t := t.t } ∧
        t.v = #v[t1 + t2, a, b, c, d + t1, e, f, g] ∧
        (s.t.toNat = 79 → t.phase = .accum ∧ t.t = s.t) ∧
        (s.t.toNat ≠ 79 → t.phase = .rnd ∧ t.t.toNat = s.t.toNat + 1)) ∧
    (79 < s.t.toNat → exec .rndSha512 s = .next { s with phase := .fault, err := 1#4 })

/-! ## The accumulator and the block loop -/

/-- `INIT.alg`: all eight accumulator words take the algorithm's initial state (under `SHA1` words 5 to 7 take 0),
`BI` 0, phase LDBLK, and nothing else changes (43_accumulator_driver.md R170 to R172; the values are those of
10_state.md R42, R44, R46). -/
def Obligations.AccumulatorInitialises : Prop :=
  encode .initSha1 = .micro 0x09#6 ∧ encode .initSha256 = .micro 0x0A#6 ∧ encode .initSha512 = .micro 0x0B#6 ∧
  ∀ s : State,
    exec .initSha1 s = .next { s with
      acc := #v[0x67452301#64, 0xEFCDAB89#64, 0x98BADCFE#64, 0x10325476#64, 0xC3D2E1F0#64, 0#64, 0#64, 0#64]
      bi := 0, phase := .ldblk } ∧
    exec .initSha256 s = .next { s with
      acc := #v[0x6A09E667#64, 0xBB67AE85#64, 0x3C6EF372#64, 0xA54FF53A#64, 0x510E527F#64, 0x9B05688C#64,
        0x1F83D9AB#64, 0x5BE0CD19#64]
      bi := 0, phase := .ldblk } ∧
    exec .initSha512 s = .next { s with
      acc := #v[0x6A09E667F3BCC908#64, 0xBB67AE8584CAA73B#64, 0x3C6EF372FE94F82B#64, 0xA54FF53A5F1D36F1#64,
        0x510E527FADE682D1#64, 0x9B05688C2B3E6C1F#64, 0x1F83D9ABFB41BD6B#64, 0x5BE0CD19137E2179#64]
      bi := 0, phase := .ldblk }

/-- `ACCUM.alg`: each working register is added, modulo 2^w, into its accumulator word, words 5 to 7 untouched under
`SHA1`, phase NEXT, and nothing else changes (43_accumulator_driver.md R174 to R176). -/
def Obligations.WorkingRegistersAddIntoAccumulator : Prop :=
  encode .accumSha1 = .micro 0x1D#6 ∧ encode .accumSha256 = .micro 0x1E#6 ∧ encode .accumSha512 = .micro 0x1F#6 ∧
  ∀ s : State,
    (∃ t, exec .accumSha1 s = .next t ∧ t = { s with acc := t.acc, phase := .next } ∧
      ∀ i : Fin 8, (i.val < 5 → t.acc[i].toNat = (s.acc[i].toNat + s.v[i].toNat) % 2 ^ 32) ∧
        (5 ≤ i.val → t.acc[i] = s.acc[i])) ∧
    (∃ t, exec .accumSha256 s = .next t ∧ t = { s with acc := t.acc, phase := .next } ∧
      ∀ i : Fin 8, t.acc[i].toNat = (s.acc[i].toNat + s.v[i].toNat) % 2 ^ 32) ∧
    (∃ t, exec .accumSha512 s = .next t ∧ t = { s with acc := t.acc, phase := .next } ∧
      ∀ i : Fin 8, t.acc[i].toNat = (s.acc[i].toNat + s.v[i].toNat) % 2 ^ 64)

/-- `NEXT`, whatever algorithm its code names: to FIN after the last block, else to LDBLK with `BI + 1`, and nothing
else changes (43_accumulator_driver.md R177). -/
def Obligations.NextFollowsItsRule : Prop :=
  ∀ (s : State) (a : Alg), encode (.next a) = .micro (BitVec.ofNat 6 (0x20 + a.code.toNat)) ∧
    (s.bi + 1 = s.nblk → exec (.next a) s = .next { s with phase := .fin }) ∧
    (s.bi + 1 ≠ s.nblk → exec (.next a) s = .next { s with phase := .ldblk, bi := s.bi + 1 })

/-- `FIN`, whatever algorithm its code names: phase DONE, so `BUSY` is 0 and `DONE` is 1, and neither `ACC` nor `ERR`
nor anything else changes (43_accumulator_driver.md R178). -/
def Obligations.FinFollowsItsRule : Prop :=
  ∀ (s : State) (a : Alg), encode (.fin a) = .micro (BitVec.ofNat 6 (0x24 + a.code.toNat)) ∧
    ∃ t, exec (.fin a) s = .next t ∧ t = { s with phase := .done } ∧ t.phase.busy = false ∧ t.phase.isDone = true

/-! ## The whole machine -/

/-- The control invariant holds at power-on on every platform, whatever the registers without a reset value hold, and
so at `State.reset`. -/
def Obligations.InvariantHoldsAtPowerOn : Prop :=
  (∀ s : State, s.cfg.wf = true → AtPowerOn s → Inv s) ∧ Inv State.reset

/-- Every step keeps the control invariant: memory canonical and within the memory's size, `MSG_LEN`, `BI` and `NBLK`
within `LENW` bits, no fault and no reserved phase, the index in range, the padding results those of the message, the
block index below the block count (10_state.md R32, R38, 40_padding.md R104, 41_schedule.md R128,
42_compress.md R154, 60_exceptions.md R218). -/
def Obligations.StepKeepsTheInvariant : Prop :=
  ∀ s t : State, Inv s → step s = .next t → Inv t

/-- Every step keeps the message memory in canonical form, from any state. -/
def Obligations.StepKeepsMemoryCanonical : Prop :=
  ∀ s t : State, Memory.wf s.msg → step s = .next t → Memory.wf t.msg

/-- From a state that meets the invariant a step always completes, if the next turn is one a host can take; so the
model's own stops are never met, and `FATAL` stays 0 (60_exceptions.md R218, 44_host_interface.md R190). That the
sequencer's turn in IDLE or DONE is a step that completes (70_reset_and_hazards.md R240 gives it one only while
`BUSY = 1`) is the model's choice (assumption 10), and so is that with no turn listed the sequencer moves
(assumption 8). -/
def Obligations.StepAlwaysCompletes : Prop :=
  ∀ s : State, Inv s → (∀ u ∈ s.turns.head?, Turn.issuable u = true) →
    ∃ t, step s = .next t ∧ t.phase.fatal = false

/-- The fault is never taken: from power-on on any platform, whatever the registers without a reset value hold,
whatever turns host and sequencer take and however they interleave, the machine runs on and `FATAL = 0`
(60_exceptions.md R218, 70_reset_and_hazards.md R240). A run longer than the listed turns goes on by the model's own
conventions: the sequencer moves (assumption 8), and its turn in IDLE or DONE changes nothing (assumption 10). -/
def Obligations.NoRunFromPowerOnFaults : Prop :=
  ∀ (s : State) (n : Nat), s.cfg.wf = true → AtPowerOn s → (∀ u ∈ s.turns, Turn.issuable u = true) →
    ∃ t : State, Host.Core.run Sys2Proof.core n s = .next t ∧ t.phase.fatal = false

/-- The transitions of `PHASE` are those of the table and no others, in a state with no reserved code
(43_accumulator_driver.md R184). At the host's turn: a `RESET` leads to IDLE; a write of 0x11, 0x12 or 0x13 to `CMD`
in IDLE or DONE, with a message the memory can hold, leads to PAD; any other transaction leaves the position of the
sequencer. At the sequencer's turn: each phase goes where its row says, with the `BI` and `T` the row writes; only an
index out of the phase's own range (16 to R - 1 in EXP, 0 to R - 1 in RND) leads to FAULT. At `NEXT` the condition is
R177's; below `NBLK` it is the table's. That the sequencer's turn in IDLE, DONE or FAULT is a step is the model's own
(assumptions 8 and 10). -/
def Obligations.PhaseTransitionsAreTheTable : Prop :=
  ∀ s t : State, s.phase.legal = true ∨ s.phase = .fault → (s.phase.busy = true → s.alg ≠ 0#2) → step s = .next t →
    (∃ x rest i, s.turns = .host x :: rest ∧ decodeTxn x = .instr i ∧
      (i = .reset → t.phase = .idle) ∧
      (((i = .wrCmd 0x11#64 ∨ i = .wrCmd 0x12#64 ∨ i = .wrCmd 0x13#64) ∧ (s.phase = .idle ∨ s.phase = .done) ∧
          s.msgLen.toNat ≤ s.cfg.msgCap) →
        t.phase = .pad ∧ t.bi = s.bi ∧ t.t = s.t ∧ t.err = 0#4 ∧
        (i = .wrCmd 0x11#64 → t.alg = 1#2) ∧ (i = .wrCmd 0x12#64 → t.alg = 2#2) ∧
        (i = .wrCmd 0x13#64 → t.alg = 3#2)) ∧
      (i ≠ .reset →
        ¬((i = .wrCmd 0x11#64 ∨ i = .wrCmd 0x12#64 ∨ i = .wrCmd 0x13#64) ∧ (s.phase = .idle ∨ s.phase = .done) ∧
          s.msgLen.toNat ≤ s.cfg.msgCap) →
        t.phase = s.phase ∧ t.bi = s.bi ∧ t.t = s.t)) ∨
    ((∀ x rest, s.turns ≠ .host x :: rest) ∧
      ((s.phase = .idle ∨ s.phase = .done ∨ s.phase = .fault → t.phase = s.phase ∧ t.bi = s.bi ∧ t.t = s.t) ∧
       (s.phase = .pad → t.phase = .init ∧ t.bi = s.bi ∧ t.t = s.t) ∧
       (s.phase = .init → t.phase = .ldblk ∧ t.bi = 0 ∧ t.t = s.t) ∧
       (s.phase = .ldblk → t.phase = .exp ∧ t.bi = s.bi ∧ t.t = 16#7) ∧
       (s.phase = .exp → ∃ a, s.algorithm = some a ∧ t.bi = s.bi ∧
         (16 ≤ s.t.toNat → s.t.toNat < a.rounds - 1 → t.phase = .exp ∧ t.t.toNat = s.t.toNat + 1) ∧
         (s.t.toNat = a.rounds - 1 → t.phase = .ldv ∧ t.t = s.t) ∧
         (s.t.toNat < 16 ∨ a.rounds ≤ s.t.toNat → t.phase = .fault ∧ t.t = s.t ∧ t.err = 1#4)) ∧
       (s.phase = .ldv → t.phase = .rnd ∧ t.bi = s.bi ∧ t.t = 0#7) ∧
       (s.phase = .rnd → ∃ a, s.algorithm = some a ∧ t.bi = s.bi ∧
         (s.t.toNat < a.rounds - 1 → t.phase = .rnd ∧ t.t.toNat = s.t.toNat + 1) ∧
         (s.t.toNat = a.rounds - 1 → t.phase = .accum ∧ t.t = s.t) ∧
         (a.rounds ≤ s.t.toNat → t.phase = .fault ∧ t.t = s.t ∧ t.err = 1#4)) ∧
       (s.phase = .accum → t.phase = .next ∧ t.bi = s.bi ∧ t.t = s.t) ∧
       (s.phase = .next →
         (s.bi + 1 ≠ s.nblk → t.phase = .ldblk ∧ t.bi = s.bi + 1 ∧ t.t = s.t) ∧
         (s.bi + 1 = s.nblk → t.phase = .fin ∧ t.bi = s.bi ∧ t.t = s.t)) ∧
       (s.phase = .fin → t.phase = .done ∧ t.bi = s.bi ∧ t.t = s.t)))

/-- The message of a run cannot change during the run: while busy no step but a `RESET` changes `MSG`, `MSG_LEN` or
`ALG` (20_memory.md R63). -/
def Obligations.RunningMessageIsImmutable : Prop :=
  ∀ s t : State, s.phase.busy = true → step s = .next t →
    (∃ x rest, s.turns = .host x :: rest ∧ decodeTxn x = .instr .reset) ∨
    (t.msg = s.msg ∧ t.msgLen = s.msgLen ∧ t.alg = s.alg)

/-- Who writes what, from any state. `RESET` apart, a host's turn writes no `V`, `W`, `ACC`, `BI`, `T`, `PADP` or `NBLK`;
`ALG` only as a `HASH` word's write to `CMD` that is accepted; `ERR` only as that, which clears it, or as a write
that is rejected; `MSG` only as `WRB`; `MSG_LEN` only as `WR MSG_LEN`. The sequencer's turn writes no `MSG`, `MSG_LEN` or
`ALG`; `V` only in LDV and RND, `W` only in LDBLK and EXP, `ACC` only in INIT and ACCUM, `BI` only in INIT and NEXT,
`T` only in LDBLK, EXP, LDV and RND, `PADP` and `NBLK` only in PAD, and `ERR` only as the fault. Nothing ever changes
the configuration (10_state.md R23 to R25, R30, R32, R33, R37, R38, 00_scope.md R16, 20_memory.md R60), nor the
model's own `chip` (assumption 4). -/
def Obligations.EachRegisterHasItsWriters : Prop :=
  ∀ s t : State, step s = .next t →
    t.cfg = s.cfg ∧ t.chip = s.chip ∧
    ((∃ x rest i, s.turns = .host x :: rest ∧ decodeTxn x = .instr i ∧
        (i = .reset ∨
          (t.v = s.v ∧ t.w = s.w ∧ t.acc = s.acc ∧ t.bi = s.bi ∧ t.t = s.t ∧ t.padp = s.padp ∧ t.nblk = s.nblk ∧
           (t.alg = s.alg ∨
             ((i = .wrCmd 0x11#64 ∨ i = .wrCmd 0x12#64 ∨ i = .wrCmd 0x13#64) ∧ t.phase = .pad ∧ t.err = 0#4)) ∧
           (t.err = s.err ∨
             ((i = .wrCmd 0x11#64 ∨ i = .wrCmd 0x12#64 ∨ i = .wrCmd 0x13#64) ∧ t.phase = .pad ∧ t.err = 0#4) ∨
             (((∃ d, i = .wrCmd d) ∨ (∃ d, i = .wrMsgLen d) ∨ ∃ a b, i = .wrb a b) ∧
               (t.err = 2#4 ∨ t.err = 3#4 ∨ t.err = 4#4) ∧ t = { s with err := t.err, turns := rest })) ∧
           (t.msg = s.msg ∨ ∃ a b, i = .wrb a b) ∧ (t.msgLen = s.msgLen ∨ ∃ d, i = .wrMsgLen d)))) ∨
     ((∀ x rest, s.turns ≠ .host x :: rest) ∧
       t.msg = s.msg ∧ t.msgLen = s.msgLen ∧ t.alg = s.alg ∧
       (t.v = s.v ∨ s.phase = .ldv ∨ s.phase = .rnd) ∧
       (t.w = s.w ∨ s.phase = .ldblk ∨ s.phase = .exp) ∧
       (t.acc = s.acc ∨ s.phase = .init ∨ s.phase = .accum) ∧
       (t.bi = s.bi ∨ s.phase = .init ∨ s.phase = .next) ∧
       (t.t = s.t ∨ s.phase = .ldblk ∨ s.phase = .exp ∨ s.phase = .ldv ∨ s.phase = .rnd) ∧
       ((t.padp = s.padp ∧ t.nblk = s.nblk) ∨ s.phase = .pad) ∧
       (t.err = s.err ∨ (t.phase = .fault ∧ t.err = 1#4))))

/-- A host transaction other than `RESET` does not disturb a run in progress: it changes nothing but `ERR` and what
the host holds (70_reset_and_hazards.md R240, 60_exceptions.md R214). -/
def Obligations.HostDoesNotDisturbTheRun : Prop :=
  ∀ (s t : State) (x : HostTxn) (rest : List Turn), s.phase.busy = true → s.turns = .host x :: rest →
    decodeTxn x ≠ .instr .reset → step s = .next t →
    t = { s with turns := rest, err := t.err, reply := t.reply }

/-- `MSG` stores the message: the line expands to one `WRB` for each byte and a `WR MSG_LEN`, and in a quiescent core
with room for it these steps leave byte `i` at address `i`, the other bytes and everything else as they were, and
`MSG_LEN` the number of bytes (30_encoding.md R94). -/
def Obligations.MessageLineStoresTheMessage : Prop :=
  ∀ (s : State) (bytes : List Byte), (s.phase = .idle ∨ s.phase = .done) → s.cfg.lenw ≤ 64 →
    bytes.length ≤ s.cfg.msgCap → bytes.length < 2 ^ s.cfg.lenw → s.turns = hostTurns [.msg bytes] →
    ∃ t : State, Host.Core.run Sys2Proof.core (bytes.length + 1) s = .next t ∧
      t = { s with msg := t.msg, msgLen := t.msgLen, turns := [] } ∧ t.msgLen.toNat = bytes.length ∧
      (∀ (i : Nat) (h : i < bytes.length), t.msgByte i = bytes[i]) ∧
      (∀ a, bytes.length ≤ a → t.msgByte a = s.msgByte a)

/-! ## The run and the digest -/

/-- An accepted `HASH.alg` begins a run that follows the digest function of the message as it stands then
(44_host_interface.md R197, 20_memory.md R63). -/
def Obligations.AcceptedCommandStartsTheRun : Prop :=
  ∀ (s : State) (i : Instr) (a : Alg),
    (i, a) = (.hashSha1, .sha1) ∨ (i, a) = (.hashSha256, .sha256) ∨ (i, a) = (.hashSha512, .sha512) →
    (s.phase = .idle ∨ s.phase = .done) → s.msgLen.toNat ≤ s.cfg.msgCap →
    ∃ t, exec i s = .next t ∧ Follows a s.msgByte s.msgLen.toNat t

/-- Every step keeps the run on the digest function, whatever the host does meanwhile, until a `RESET` or the next
accepted command: at every position of the sequencer the accumulator, the schedule and the working registers are
those of the run as a function, and in DONE the accumulator is the digest
(43_accumulator_driver.md R180, R181, 70_reset_and_hazards.md R240). Where the length field cannot hold the bit length
(`8 * l >= 2 ^ (8 * lfb)`) the spec gives the digest no value (40_padding.md R105): there the function takes the free
trailer bytes, and that these are a function of the algorithm, the length and the index is the model's choice
(assumption 5). The sequencer's turn in DONE, and the move with no turn listed, are the model's own (assumptions 10
and 8). -/
def Obligations.StepFollowsTheDigestFunction : Prop :=
  ∀ (a : Alg) (m : Nat → Byte) (l : Nat) (s t : State), Follows a m l s → step s = .next t →
    Follows a m l t ∨
    (∃ x rest, s.turns = .host x :: rest ∧ decodeTxn x = .instr .reset) ∨
    (s.phase = .done ∧ t.phase = .pad)

/-- Progress: each of the sequencer's turns in a run takes one off the number of micro-operations left, which is the
count of R182 at the start and positive while the run goes on; a host transaction but `RESET` leaves it as it is
(43_accumulator_driver.md R182, 70_reset_and_hazards.md R242). -/
def Obligations.EveryTurnBringsTheRunNearer : Prop :=
  ∀ (s t : State) (a : Alg), Inv s → s.phase.busy = true → s.algorithm = some a → step s = .next t →
    0 < stepsLeft a s ∧
    (s.phase = .pad → stepsLeft a s = 2 + blockCount a s.msgLen.toNat * (2 * a.rounds - 12) + 1) ∧
    ((∀ x rest, s.turns ≠ .host x :: rest) → stepsLeft a t + 1 = stepsLeft a s) ∧
    ((∃ x rest, s.turns = .host x :: rest ∧ decodeTxn x ≠ .instr .reset) → stepsLeft a t = stepsLeft a s)

/-- The headline: an accepted `HASH.alg` ends. From a quiescent state that meets the invariant, with no other host
turn, the `CMD` write and `2 + NBLK * (2 * R - 12) + 1` micro-operations lead to DONE with the accumulator equal to the
digest of the message, wherever the length field can hold the bit length (43_accumulator_driver.md R180 to R182,
44_host_interface.md R198 to R200; past that the spec gives the digest no value, 40_padding.md R105). That the sequencer moves once the listed turn is
taken is the model's own (assumption 8). -/
def Obligations.HashRunComputesTheDigest : Prop :=
  ∀ (s : State) (a : Alg), Inv s → (s.phase = .idle ∨ s.phase = .done) → s.msgLen.toNat ≤ s.cfg.msgCap →
    s.turns = [.host ⟨0x10#6, 0, BitVec.ofNat 64 (0x10 + a.code.toNat)⟩] →
    ∃ t : State, Host.Core.run Sys2Proof.core (1 + (2 + blockCount a s.msgLen.toNat * (2 * a.rounds - 12) + 1)) s = .next t ∧
      t.phase = .done ∧ t.alg = a.code ∧ t.err = 0#4 ∧
      (8 * s.msgLen.toNat < 2 ^ (8 * a.lfb) → t.acc = digest a s.msgByte s.msgLen.toNat) ∧
      t.msg = s.msg ∧ t.msgLen = s.msgLen

/-- No cross-call state: two cores that start a run of the same algorithm on the same message both end it, after
the same number of steps, with the same `STATUS` and, wherever the length field can hold the bit length
(40_padding.md R105), the same digest registers, whatever else differs between them:
the memory at and above `L`, every register an earlier run left, `ERR`, the platform, the core
(43_accumulator_driver.md R183, 40_padding.md R110). That the sequencer moves once the listed turn is taken is the
model's own (assumption 8). -/
def Obligations.DigestOwesNothingToEarlierRuns : Prop :=
  ∀ (s1 s2 : State) (a : Alg),
    Inv s1 → Inv s2 → (s1.phase = .idle ∨ s1.phase = .done) → (s2.phase = .idle ∨ s2.phase = .done) →
    s1.msgLen = s2.msgLen → s1.msgLen.toNat ≤ s1.cfg.msgCap → s2.msgLen.toNat ≤ s2.cfg.msgCap →
    (∀ j, j < s1.msgLen.toNat → s1.msgByte j = s2.msgByte j) →
    s1.turns = [.host ⟨0x10#6, 0, BitVec.ofNat 64 (0x10 + a.code.toNat)⟩] → s2.turns = s1.turns →
    ∃ (n : Nat) (t1 t2 : State),
      n = 1 + (2 + blockCount a s1.msgLen.toNat * (2 * a.rounds - 12) + 1) ∧
      Host.Core.run Sys2Proof.core n s1 = .next t1 ∧ Host.Core.run Sys2Proof.core n s2 = .next t2 ∧
      t1.phase = .done ∧ t2.phase = .done ∧
      (8 * s1.msgLen.toNat < 2 ^ (8 * a.lfb) → ∀ i, t1.digestReg i = t2.digestReg i) ∧ t1.status = t2.status
end

