-- ==== Sys2Proof/Laws/State.lean ====
section
/-! SUPPORT. What each register operation leaves in each field of the state, so that no proof unfolds a record
update. -/

namespace Sys2Proof.Machine

variable (s : State)

@[simp] theorem State.storeByte_cfg (a : Nat) (b : Byte) : (s.storeByte a b).cfg = s.cfg := rfl
@[simp] theorem State.storeByte_v (a : Nat) (b : Byte) : (s.storeByte a b).v = s.v := rfl
@[simp] theorem State.storeByte_w (a : Nat) (b : Byte) : (s.storeByte a b).w = s.w := rfl
@[simp] theorem State.storeByte_acc (a : Nat) (b : Byte) : (s.storeByte a b).acc = s.acc := rfl
@[simp] theorem State.storeByte_phase (a : Nat) (b : Byte) : (s.storeByte a b).phase = s.phase := rfl
@[simp] theorem State.storeByte_bi (a : Nat) (b : Byte) : (s.storeByte a b).bi = s.bi := rfl
@[simp] theorem State.storeByte_t (a : Nat) (b : Byte) : (s.storeByte a b).t = s.t := rfl
@[simp] theorem State.storeByte_padp (a : Nat) (b : Byte) : (s.storeByte a b).padp = s.padp := rfl
@[simp] theorem State.storeByte_nblk (a : Nat) (b : Byte) : (s.storeByte a b).nblk = s.nblk := rfl
@[simp] theorem State.storeByte_err (a : Nat) (b : Byte) : (s.storeByte a b).err = s.err := rfl
@[simp] theorem State.storeByte_alg (a : Nat) (b : Byte) : (s.storeByte a b).alg = s.alg := rfl
@[simp] theorem State.storeByte_msgLen (a : Nat) (b : Byte) : (s.storeByte a b).msgLen = s.msgLen := rfl
@[simp] theorem State.storeByte_msg (a : Nat) (b : Byte) : (s.storeByte a b).msg = Memory.write s.msg a b := rfl
@[simp] theorem State.storeByte_turns (a : Nat) (b : Byte) : (s.storeByte a b).turns = s.turns := rfl
@[simp] theorem State.storeByte_reply (a : Nat) (b : Byte) : (s.storeByte a b).reply = s.reply := rfl
@[simp] theorem State.storeByte_draws (a : Nat) (b : Byte) : (s.storeByte a b).draws = s.draws := rfl
@[simp] theorem State.storeByte_chip (a : Nat) (b : Byte) : (s.storeByte a b).chip = s.chip := rfl

@[simp] theorem State.goto_cfg (p : Phase) (bi : Nat) (t : BitVec 7) : (s.goto p bi t).cfg = s.cfg := rfl
@[simp] theorem State.goto_v (p : Phase) (bi : Nat) (t : BitVec 7) : (s.goto p bi t).v = s.v := rfl
@[simp] theorem State.goto_w (p : Phase) (bi : Nat) (t : BitVec 7) : (s.goto p bi t).w = s.w := rfl
@[simp] theorem State.goto_acc (p : Phase) (bi : Nat) (t : BitVec 7) : (s.goto p bi t).acc = s.acc := rfl
@[simp] theorem State.goto_phase (p : Phase) (bi : Nat) (t : BitVec 7) : (s.goto p bi t).phase = p := rfl
@[simp] theorem State.goto_bi (p : Phase) (bi : Nat) (t : BitVec 7) : (s.goto p bi t).bi = bi := rfl
@[simp] theorem State.goto_t (p : Phase) (bi : Nat) (t : BitVec 7) : (s.goto p bi t).t = t := rfl
@[simp] theorem State.goto_padp (p : Phase) (bi : Nat) (t : BitVec 7) : (s.goto p bi t).padp = s.padp := rfl
@[simp] theorem State.goto_nblk (p : Phase) (bi : Nat) (t : BitVec 7) : (s.goto p bi t).nblk = s.nblk := rfl
@[simp] theorem State.goto_err (p : Phase) (bi : Nat) (t : BitVec 7) : (s.goto p bi t).err = s.err := rfl
@[simp] theorem State.goto_alg (p : Phase) (bi : Nat) (t : BitVec 7) : (s.goto p bi t).alg = s.alg := rfl
@[simp] theorem State.goto_msgLen (p : Phase) (bi : Nat) (t : BitVec 7) : (s.goto p bi t).msgLen = s.msgLen := rfl
@[simp] theorem State.goto_msg (p : Phase) (bi : Nat) (t : BitVec 7) : (s.goto p bi t).msg = s.msg := rfl
@[simp] theorem State.goto_turns (p : Phase) (bi : Nat) (t : BitVec 7) : (s.goto p bi t).turns = s.turns := rfl
@[simp] theorem State.goto_reply (p : Phase) (bi : Nat) (t : BitVec 7) : (s.goto p bi t).reply = s.reply := rfl
@[simp] theorem State.goto_draws (p : Phase) (bi : Nat) (t : BitVec 7) : (s.goto p bi t).draws = s.draws := rfl
@[simp] theorem State.goto_chip (p : Phase) (bi : Nat) (t : BitVec 7) : (s.goto p bi t).chip = s.chip := rfl

@[simp] theorem State.setMsgLen_cfg (x : Word) : (s.setMsgLen x).cfg = s.cfg := rfl
@[simp] theorem State.setMsgLen_v (x : Word) : (s.setMsgLen x).v = s.v := rfl
@[simp] theorem State.setMsgLen_w (x : Word) : (s.setMsgLen x).w = s.w := rfl
@[simp] theorem State.setMsgLen_acc (x : Word) : (s.setMsgLen x).acc = s.acc := rfl
@[simp] theorem State.setMsgLen_phase (x : Word) : (s.setMsgLen x).phase = s.phase := rfl
@[simp] theorem State.setMsgLen_bi (x : Word) : (s.setMsgLen x).bi = s.bi := rfl
@[simp] theorem State.setMsgLen_t (x : Word) : (s.setMsgLen x).t = s.t := rfl
@[simp] theorem State.setMsgLen_padp (x : Word) : (s.setMsgLen x).padp = s.padp := rfl
@[simp] theorem State.setMsgLen_nblk (x : Word) : (s.setMsgLen x).nblk = s.nblk := rfl
@[simp] theorem State.setMsgLen_err (x : Word) : (s.setMsgLen x).err = s.err := rfl
@[simp] theorem State.setMsgLen_alg (x : Word) : (s.setMsgLen x).alg = s.alg := rfl
@[simp] theorem State.setMsgLen_msgLen (x : Word) : (s.setMsgLen x).msgLen = lengthOf s.cfg x := rfl
@[simp] theorem State.setMsgLen_msg (x : Word) : (s.setMsgLen x).msg = s.msg := rfl
@[simp] theorem State.setMsgLen_turns (x : Word) : (s.setMsgLen x).turns = s.turns := rfl
@[simp] theorem State.setMsgLen_reply (x : Word) : (s.setMsgLen x).reply = s.reply := rfl
@[simp] theorem State.setMsgLen_draws (x : Word) : (s.setMsgLen x).draws = s.draws := rfl
@[simp] theorem State.setMsgLen_chip (x : Word) : (s.setMsgLen x).chip = s.chip := rfl

@[simp] theorem State.respond_cfg (x : Word) : (s.respond x).cfg = s.cfg := rfl
@[simp] theorem State.respond_v (x : Word) : (s.respond x).v = s.v := rfl
@[simp] theorem State.respond_w (x : Word) : (s.respond x).w = s.w := rfl
@[simp] theorem State.respond_acc (x : Word) : (s.respond x).acc = s.acc := rfl
@[simp] theorem State.respond_phase (x : Word) : (s.respond x).phase = s.phase := rfl
@[simp] theorem State.respond_bi (x : Word) : (s.respond x).bi = s.bi := rfl
@[simp] theorem State.respond_t (x : Word) : (s.respond x).t = s.t := rfl
@[simp] theorem State.respond_padp (x : Word) : (s.respond x).padp = s.padp := rfl
@[simp] theorem State.respond_nblk (x : Word) : (s.respond x).nblk = s.nblk := rfl
@[simp] theorem State.respond_err (x : Word) : (s.respond x).err = s.err := rfl
@[simp] theorem State.respond_alg (x : Word) : (s.respond x).alg = s.alg := rfl
@[simp] theorem State.respond_msgLen (x : Word) : (s.respond x).msgLen = s.msgLen := rfl
@[simp] theorem State.respond_msg (x : Word) : (s.respond x).msg = s.msg := rfl
@[simp] theorem State.respond_turns (x : Word) : (s.respond x).turns = s.turns := rfl
@[simp] theorem State.respond_reply (x : Word) : (s.respond x).reply = some x := rfl
@[simp] theorem State.respond_draws (x : Word) : (s.respond x).draws = s.draws := rfl
@[simp] theorem State.respond_chip (x : Word) : (s.respond x).chip = s.chip := rfl

@[simp] theorem State.reject_cfg (c : BitVec 4) : (s.reject c).cfg = s.cfg := rfl
@[simp] theorem State.reject_v (c : BitVec 4) : (s.reject c).v = s.v := rfl
@[simp] theorem State.reject_w (c : BitVec 4) : (s.reject c).w = s.w := rfl
@[simp] theorem State.reject_acc (c : BitVec 4) : (s.reject c).acc = s.acc := rfl
@[simp] theorem State.reject_phase (c : BitVec 4) : (s.reject c).phase = s.phase := rfl
@[simp] theorem State.reject_bi (c : BitVec 4) : (s.reject c).bi = s.bi := rfl
@[simp] theorem State.reject_t (c : BitVec 4) : (s.reject c).t = s.t := rfl
@[simp] theorem State.reject_padp (c : BitVec 4) : (s.reject c).padp = s.padp := rfl
@[simp] theorem State.reject_nblk (c : BitVec 4) : (s.reject c).nblk = s.nblk := rfl
@[simp] theorem State.reject_err (c : BitVec 4) : (s.reject c).err = c := rfl
@[simp] theorem State.reject_alg (c : BitVec 4) : (s.reject c).alg = s.alg := rfl
@[simp] theorem State.reject_msgLen (c : BitVec 4) : (s.reject c).msgLen = s.msgLen := rfl
@[simp] theorem State.reject_msg (c : BitVec 4) : (s.reject c).msg = s.msg := rfl
@[simp] theorem State.reject_turns (c : BitVec 4) : (s.reject c).turns = s.turns := rfl
@[simp] theorem State.reject_reply (c : BitVec 4) : (s.reject c).reply = s.reply := rfl
@[simp] theorem State.reject_draws (c : BitVec 4) : (s.reject c).draws = s.draws := rfl
@[simp] theorem State.reject_chip (c : BitVec 4) : (s.reject c).chip = s.chip := rfl

@[simp] theorem State.raiseFault_cfg : (s.raiseFault).cfg = s.cfg := rfl
@[simp] theorem State.raiseFault_v : (s.raiseFault).v = s.v := rfl
@[simp] theorem State.raiseFault_w : (s.raiseFault).w = s.w := rfl
@[simp] theorem State.raiseFault_acc : (s.raiseFault).acc = s.acc := rfl
@[simp] theorem State.raiseFault_phase : (s.raiseFault).phase = .fault := rfl
@[simp] theorem State.raiseFault_bi : (s.raiseFault).bi = s.bi := rfl
@[simp] theorem State.raiseFault_t : (s.raiseFault).t = s.t := rfl
@[simp] theorem State.raiseFault_padp : (s.raiseFault).padp = s.padp := rfl
@[simp] theorem State.raiseFault_nblk : (s.raiseFault).nblk = s.nblk := rfl
@[simp] theorem State.raiseFault_err : (s.raiseFault).err = causeRoundIndex := rfl
@[simp] theorem State.raiseFault_alg : (s.raiseFault).alg = s.alg := rfl
@[simp] theorem State.raiseFault_msgLen : (s.raiseFault).msgLen = s.msgLen := rfl
@[simp] theorem State.raiseFault_msg : (s.raiseFault).msg = s.msg := rfl
@[simp] theorem State.raiseFault_turns : (s.raiseFault).turns = s.turns := rfl
@[simp] theorem State.raiseFault_reply : (s.raiseFault).reply = s.reply := rfl
@[simp] theorem State.raiseFault_draws : (s.raiseFault).draws = s.draws := rfl
@[simp] theorem State.raiseFault_chip : (s.raiseFault).chip = s.chip := rfl

@[simp] theorem State.accept_cfg (a : Alg) : (s.accept a).cfg = s.cfg := rfl
@[simp] theorem State.accept_v (a : Alg) : (s.accept a).v = s.v := rfl
@[simp] theorem State.accept_w (a : Alg) : (s.accept a).w = s.w := rfl
@[simp] theorem State.accept_acc (a : Alg) : (s.accept a).acc = s.acc := rfl
@[simp] theorem State.accept_phase (a : Alg) : (s.accept a).phase = .pad := rfl
@[simp] theorem State.accept_bi (a : Alg) : (s.accept a).bi = s.bi := rfl
@[simp] theorem State.accept_t (a : Alg) : (s.accept a).t = s.t := rfl
@[simp] theorem State.accept_padp (a : Alg) : (s.accept a).padp = s.padp := rfl
@[simp] theorem State.accept_nblk (a : Alg) : (s.accept a).nblk = s.nblk := rfl
@[simp] theorem State.accept_err (a : Alg) : (s.accept a).err = 0 := rfl
@[simp] theorem State.accept_alg (a : Alg) : (s.accept a).alg = a.code := rfl
@[simp] theorem State.accept_msgLen (a : Alg) : (s.accept a).msgLen = s.msgLen := rfl
@[simp] theorem State.accept_msg (a : Alg) : (s.accept a).msg = s.msg := rfl
@[simp] theorem State.accept_turns (a : Alg) : (s.accept a).turns = s.turns := rfl
@[simp] theorem State.accept_reply (a : Alg) : (s.accept a).reply = s.reply := rfl
@[simp] theorem State.accept_draws (a : Alg) : (s.accept a).draws = s.draws := rfl
@[simp] theorem State.accept_chip (a : Alg) : (s.accept a).chip = s.chip := rfl

@[simp] theorem State.resetCore_cfg : (s.resetCore).cfg = s.cfg := rfl
@[simp] theorem State.resetCore_v : (s.resetCore).v = Vector.ofFn fun i : Fin 8 => s.unspecified (4 + i.val) := rfl
@[simp] theorem State.resetCore_w : (s.resetCore).w = Vector.ofFn fun i : Fin 80 => s.unspecified (20 + i.val) := rfl
@[simp] theorem State.resetCore_acc : (s.resetCore).acc = Vector.ofFn fun i : Fin 8 => s.unspecified (12 + i.val) := rfl
@[simp] theorem State.resetCore_phase : (s.resetCore).phase = .idle := rfl
@[simp] theorem State.resetCore_bi : (s.resetCore).bi = (s.unspecified 0).toNat % 2 ^ s.cfg.lenw := rfl
@[simp] theorem State.resetCore_t : (s.resetCore).t = (s.unspecified 2).setWidth 7 := rfl
@[simp] theorem State.resetCore_padp : (s.resetCore).padp = (s.unspecified 3).setWidth 7 := rfl
@[simp] theorem State.resetCore_nblk : (s.resetCore).nblk = (s.unspecified 1).toNat % 2 ^ s.cfg.lenw := rfl
@[simp] theorem State.resetCore_err : (s.resetCore).err = 0 := rfl
@[simp] theorem State.resetCore_alg : (s.resetCore).alg = 0 := rfl
@[simp] theorem State.resetCore_msgLen : (s.resetCore).msgLen = 0 := rfl
@[simp] theorem State.resetCore_msg : (s.resetCore).msg = s.msg := rfl
@[simp] theorem State.resetCore_turns : (s.resetCore).turns = s.turns := rfl
@[simp] theorem State.resetCore_reply : (s.resetCore).reply = s.reply := rfl
@[simp] theorem State.resetCore_draws : (s.resetCore).draws = s.draws + 100 := rfl
@[simp] theorem State.resetCore_chip : (s.resetCore).chip = s.chip := rfl

end Sys2Proof.Machine
end

