-- ==== Sys2Proof/Laws/PerInstr.lean ====
section
/-! SUPPORT. Laws of every instruction as syntax, one lemma a constructor: the word an instruction encodes to is in
the format its row of the opcode table names and has the bits the row's match and mask fix (30_encoding.md R86 to
R88). The rows are written here a second time, from the table, apart from the encoder. -/

namespace Sys2Proof.Laws

/-- The three formats (30_encoding.md R80). -/
inductive Format where
  | c
  | u
  | t
  deriving DecidableEq, Repr

/-- One row of spec/opcode_table.json. -/
structure Row where
  format : Format
  bits : Nat
  mask : Nat
  deriving DecidableEq, Repr

/-- The row an instruction belongs to (30_encoding.md R86 to R88). -/
def rowOf : Instr → Row
  | .nop => ⟨.c, 0x00, 0xFFFFFFFFFFFFFFFF⟩
  | .hashSha1 => ⟨.c, 0x11, 0xFFFFFFFFFFFFFFFF⟩
  | .hashSha256 => ⟨.c, 0x12, 0xFFFFFFFFFFFFFFFF⟩
  | .hashSha512 => ⟨.c, 0x13, 0xFFFFFFFFFFFFFFFF⟩
  | .padSha1 => ⟨.u, 0x05, 0x3F⟩
  | .padSha256 => ⟨.u, 0x06, 0x3F⟩
  | .padSha512 => ⟨.u, 0x07, 0x3F⟩
  | .initSha1 => ⟨.u, 0x09, 0x3F⟩
  | .initSha256 => ⟨.u, 0x0A, 0x3F⟩
  | .initSha512 => ⟨.u, 0x0B, 0x3F⟩
  | .ldblkSha1 => ⟨.u, 0x0D, 0x3F⟩
  | .ldblkSha256 => ⟨.u, 0x0E, 0x3F⟩
  | .ldblkSha512 => ⟨.u, 0x0F, 0x3F⟩
  | .expSha1 => ⟨.u, 0x11, 0x3F⟩
  | .expSha256 => ⟨.u, 0x12, 0x3F⟩
  | .expSha512 => ⟨.u, 0x13, 0x3F⟩
  | .ldvSha1 => ⟨.u, 0x15, 0x3F⟩
  | .ldvSha256 => ⟨.u, 0x16, 0x3F⟩
  | .ldvSha512 => ⟨.u, 0x17, 0x3F⟩
  | .rndSha1 => ⟨.u, 0x19, 0x3F⟩
  | .rndSha256 => ⟨.u, 0x1A, 0x3F⟩
  | .rndSha512 => ⟨.u, 0x1B, 0x3F⟩
  | .accumSha1 => ⟨.u, 0x1D, 0x3F⟩
  | .accumSha256 => ⟨.u, 0x1E, 0x3F⟩
  | .accumSha512 => ⟨.u, 0x1F, 0x3F⟩
  | .next _ => ⟨.u, 0x20, 0x3C⟩
  | .fin _ => ⟨.u, 0x24, 0x3C⟩
  | .rdCmd => ⟨.t, 0x00, 0x3F⟩
  | .rdStatus => ⟨.t, 0x01, 0x3F⟩
  | .rdMsgLen => ⟨.t, 0x02, 0x3F⟩
  | .rdRsvd reg => ⟨.t, reg.toNat, 0x3F⟩
  | .rdDigest _ => ⟨.t, 0x08, 0x38⟩
  | .wrCmd _ => ⟨.t, 0x10, 0x3F⟩
  | .wrMsgLen _ => ⟨.t, 0x12, 0x3F⟩
  | .wrRo reg _ => ⟨.t, 0x10 + reg.toNat, 0x3F⟩
  | .wrb _ _ => ⟨.t, 0x20, 0x3F⟩
  | .reset => ⟨.t, 0x30, 0x3F⟩

/-- A row covers an encoded instruction: same format, and the masked code is the row's. -/
def Row.covers (r : Row) : Encoded → Bool
  | .command w => decide (r.format = .c) && decide (w.toNat &&& r.mask = r.bits)
  | .micro c => decide (r.format = .u) && decide (c.toNat &&& r.mask = r.bits)
  | .txn x => decide (r.format = .t) && decide (x.code.toNat &&& r.mask = r.bits)

/-- The family: a well-formed instruction's word is covered by its own row. -/
abbrev CodeBits.Statement (i : Instr) : Prop := i.wf = true → (rowOf i).covers (encode i) = true

theorem CodeBits.nop : CodeBits.Statement .nop := by decide
theorem CodeBits.hashSha1 : CodeBits.Statement .hashSha1 := by decide
theorem CodeBits.hashSha256 : CodeBits.Statement .hashSha256 := by decide
theorem CodeBits.hashSha512 : CodeBits.Statement .hashSha512 := by decide
theorem CodeBits.padSha1 : CodeBits.Statement .padSha1 := by decide
theorem CodeBits.padSha256 : CodeBits.Statement .padSha256 := by decide
theorem CodeBits.padSha512 : CodeBits.Statement .padSha512 := by decide
theorem CodeBits.initSha1 : CodeBits.Statement .initSha1 := by decide
theorem CodeBits.initSha256 : CodeBits.Statement .initSha256 := by decide
theorem CodeBits.initSha512 : CodeBits.Statement .initSha512 := by decide
theorem CodeBits.ldblkSha1 : CodeBits.Statement .ldblkSha1 := by decide
theorem CodeBits.ldblkSha256 : CodeBits.Statement .ldblkSha256 := by decide
theorem CodeBits.ldblkSha512 : CodeBits.Statement .ldblkSha512 := by decide
theorem CodeBits.expSha1 : CodeBits.Statement .expSha1 := by decide
theorem CodeBits.expSha256 : CodeBits.Statement .expSha256 := by decide
theorem CodeBits.expSha512 : CodeBits.Statement .expSha512 := by decide
theorem CodeBits.ldvSha1 : CodeBits.Statement .ldvSha1 := by decide
theorem CodeBits.ldvSha256 : CodeBits.Statement .ldvSha256 := by decide
theorem CodeBits.ldvSha512 : CodeBits.Statement .ldvSha512 := by decide
theorem CodeBits.rndSha1 : CodeBits.Statement .rndSha1 := by decide
theorem CodeBits.rndSha256 : CodeBits.Statement .rndSha256 := by decide
theorem CodeBits.rndSha512 : CodeBits.Statement .rndSha512 := by decide
theorem CodeBits.accumSha1 : CodeBits.Statement .accumSha1 := by decide
theorem CodeBits.accumSha256 : CodeBits.Statement .accumSha256 := by decide
theorem CodeBits.accumSha512 : CodeBits.Statement .accumSha512 := by decide
theorem CodeBits.next (a : Alg) : CodeBits.Statement (.next a) := by cases a <;> decide
theorem CodeBits.fin (a : Alg) : CodeBits.Statement (.fin a) := by cases a <;> decide
theorem CodeBits.rdCmd : CodeBits.Statement .rdCmd := by decide
theorem CodeBits.rdStatus : CodeBits.Statement .rdStatus := by decide
theorem CodeBits.rdMsgLen : CodeBits.Statement .rdMsgLen := by decide
theorem CodeBits.rdRsvd (reg : BitVec 4) : CodeBits.Statement (.rdRsvd reg) := by revert reg; decide
theorem CodeBits.rdDigest (i : BitVec 3) : CodeBits.Statement (.rdDigest i) := by revert i; decide
theorem CodeBits.wrCmd (data : Word) : CodeBits.Statement (.wrCmd data) := fun _ => by simp [rowOf, encode, Row.covers, txnCode]
theorem CodeBits.wrMsgLen (data : Word) : CodeBits.Statement (.wrMsgLen data) := fun _ => by simp [rowOf, encode, Row.covers, txnCode]
theorem CodeBits.wrRo (reg : BitVec 4) (data : Word) : CodeBits.Statement (.wrRo reg data) := by
  have : ∀ reg : BitVec 4, (txnCode 1#2 reg).toNat &&& 0x3F = 0x10 + reg.toNat := by decide
  exact fun _ => by simp [rowOf, encode, Row.covers, this]
theorem CodeBits.wrb (addr : Word) (byte : Byte) : CodeBits.Statement (.wrb addr byte) := fun _ => by simp [rowOf, encode, Row.covers, txnCode]
theorem CodeBits.reset : CodeBits.Statement .reset := by decide

end Sys2Proof.Laws
end

