-- ==== Sys2Proof/Laws/Words.lean ====
section
/-! SUPPORT. The word operators, the registers' files and the sizes of the padding arithmetic. -/

namespace Sys2Proof

theorem Alg.lfb_lt_bs (a : Alg) : a.lfb + 1 < a.bs := by cases a <;> decide

theorem Alg.rounds_bounds (a : Alg) : 64 ≤ a.rounds ∧ a.rounds ≤ 80 := by cases a <;> decide

theorem Alg.words_le (a : Alg) : a.words ≤ 8 := by cases a <;> decide

theorem Alg.bs_eq (a : Alg) : a.bs = 16 * a.wb := by cases a <;> rfl

theorem Alg.ofCode_code (a : Alg) : Alg.ofCode a.code = some a := by cases a <;> rfl

theorem Alg.code_of_ofCode {c : BitVec 2} {a : Alg} (h : Alg.ofCode c = some a) : c = a.code := by
  simp only [Alg.ofCode] at h
  split at h
  · cases h; assumption
  · split at h
    · cases h; assumption
    · split at h
      · cases h; assumption
      · cases h

theorem Alg.code_ne_zero (a : Alg) : a.code ≠ 0#2 := by cases a <;> decide

namespace Machine

/-! ## Word operators -/

@[simp] theorem low32_zext64 (x : BitVec 32) : low32 (zext64 x) = x := by
  simp [low32, zext64]

theorem zext64_low32_zext64 (x : BitVec 32) : zext64 (low32 (zext64 x)) = zext64 x := by simp

theorem rotr_eq_rotateRight {w : Nat} (x : BitVec w) {n : Nat} (h : n < w) : rotr x n = x.rotateRight n := by
  rw [rotr, BitVec.rotateRight_def, Nat.mod_eq_of_lt h]

theorem rotl_eq_rotateLeft {w : Nat} (x : BitVec w) {n : Nat} (h0 : 0 < n) (h : n < w) :
    rotl x n = x.rotateLeft n := by
  rw [rotl, rotr, BitVec.rotateLeft_def, Nat.mod_eq_of_lt h, BitVec.or_comm]
  congr 2
  omega

/-! ## The schedule's registers -/

theorem wAt_eq (w : Vector Word 80) {t : Nat} (h : t < 80) : wAt w t = w[t] := by simp [wAt, h]

theorem wAt_set_same (w : Vector Word 80) {t : Nat} (x : Word) (h : t < 80) :
    wAt (w.setIfInBounds t x) t = x := by
  simp [wAt, h]

theorem wAt_set_other (w : Vector Word 80) {t k : Nat} (x : Word) (h : t ≠ k) :
    wAt (w.setIfInBounds t x) k = wAt w k := by
  simp only [wAt]
  split
  · rw [Vector.getElem_setIfInBounds_ne _ h]
  · rfl

theorem wAt_loadBlock_low (a : Alg) (pm : Nat → Byte) (i : Nat) (w : Vector Word 80) {j : Nat} (h : j < 16) :
    wAt (loadBlock a pm i w) j = blockWord a pm i j := by
  have : j < 80 := by omega
  simp [wAt, loadBlock, h, this]

theorem wAt_loadBlock_high (a : Alg) (pm : Nat → Byte) (i : Nat) (w : Vector Word 80) {j : Nat} (h : 16 ≤ j) :
    wAt (loadBlock a pm i w) j = wAt w j := by
  have : ¬j < 16 := by omega
  simp only [wAt]
  split
  · simp [loadBlock, this]
  · rfl

/-! ## The accumulator and the working registers, word by word -/

@[simp] theorem initialAcc_get (a : Alg) {i : Nat} (h : i < 8) : (initialAcc a)[i] = ivWord a ⟨i, h⟩ := by
  simp [initialAcc]

@[simp] theorem fold_get (a : Alg) (acc v : Vector Word 8) {i : Nat} (h : i < 8) :
    (fold a acc v)[i] = if i < a.words then addWord a acc[i] v[i] else acc[i] := by
  simp [fold]

@[simp] theorem loadV_get (a : Alg) (acc v : Vector Word 8) {i : Nat} (h : i < 8) :
    (loadV a acc v)[i] = if i < a.words then narrow a acc[i] else v[i] := by
  simp [loadV]

/-! ## The padding arithmetic -/

theorem padLen_lt (a : Alg) (l : Nat) : padLen a l < a.bs := Nat.mod_lt _ (by cases a <;> decide)

theorem padLen_lt_128 (a : Alg) (l : Nat) : padLen a l < 128 :=
  Nat.lt_of_lt_of_le (padLen_lt a l) (by cases a <;> decide)

/-- `PADP` holds `p` exactly. -/
theorem padLen_toNat (a : Alg) (l : Nat) : (BitVec.ofNat 7 (padLen a l)).toNat = padLen a l := by
  simp [BitVec.toNat_ofNat, Nat.mod_eq_of_lt (padLen_lt_128 a l)]

end Machine

end Sys2Proof
end

