-- ==== Sys2Proof/Laws/Steps.lean ====
section
/-! SUPPORT. What each shared operation, each transaction, each micro-operation and one step can do, said once:
later proofs cite these and never unfold `exec` or `step`. -/

namespace Sys2Proof

/-! ## Decoding the sequencer's own position -/

theorem Phase.ofCode_code (p : Phase) : Phase.ofCode p.code = p := by cases p <;> rfl

theorem microPhase_microCode (p : Phase) (alg : BitVec 2) : microPhase (microCode p alg) = p.code := by
  revert alg
  cases p <;> decide

theorem microAlg_microCode (p : Phase) (alg : BitVec 2) : microAlg (microCode p alg) = alg := by
  revert alg
  cases p <;> decide

/-- The variant an algorithm selects of a micro-operation, or the reserved code `ALG = 0`. -/
theorem byAlg_cases (alg : BitVec 2) (f : Alg → Instr) :
    (∃ a, alg = a.code ∧ byAlg alg f = .instr (f a)) ∨ (alg = 0#2 ∧ byAlg alg f = .reject .reservedMicro) := by
  rcases (by decide : ∀ c : BitVec 2, c = 0#2 ∨ c = 1#2 ∨ c = 2#2 ∨ c = 3#2) alg with rfl | rfl | rfl | rfl
  · exact .inr ⟨rfl, rfl⟩
  · exact .inl ⟨.sha1, rfl, rfl⟩
  · exact .inl ⟨.sha256, rfl, rfl⟩
  · exact .inl ⟨.sha512, rfl, rfl⟩

namespace Machine

@[simp] theorem State.popTurn_cfg (s : State) : s.popTurn.cfg = s.cfg := rfl
@[simp] theorem State.popTurn_v (s : State) : s.popTurn.v = s.v := rfl
@[simp] theorem State.popTurn_w (s : State) : s.popTurn.w = s.w := rfl
@[simp] theorem State.popTurn_acc (s : State) : s.popTurn.acc = s.acc := rfl
@[simp] theorem State.popTurn_phase (s : State) : s.popTurn.phase = s.phase := rfl
@[simp] theorem State.popTurn_bi (s : State) : s.popTurn.bi = s.bi := rfl
@[simp] theorem State.popTurn_t (s : State) : s.popTurn.t = s.t := rfl
@[simp] theorem State.popTurn_padp (s : State) : s.popTurn.padp = s.padp := rfl
@[simp] theorem State.popTurn_nblk (s : State) : s.popTurn.nblk = s.nblk := rfl
@[simp] theorem State.popTurn_err (s : State) : s.popTurn.err = s.err := rfl
@[simp] theorem State.popTurn_alg (s : State) : s.popTurn.alg = s.alg := rfl
@[simp] theorem State.popTurn_msgLen (s : State) : s.popTurn.msgLen = s.msgLen := rfl
@[simp] theorem State.popTurn_msg (s : State) : s.popTurn.msg = s.msg := rfl
@[simp] theorem State.popTurn_turns (s : State) : s.popTurn.turns = s.turns.tail := rfl
@[simp] theorem State.popTurn_reply (s : State) : s.popTurn.reply = s.reply := rfl
@[simp] theorem State.popTurn_draws (s : State) : s.popTurn.draws = s.draws := rfl
@[simp] theorem State.popTurn_chip (s : State) : s.popTurn.chip = s.chip := rfl

/-! ## Shared operations -/

/-- Everything `HASH.alg` can do (44_host_interface.md R197). -/
theorem hashOp_cases (a : Alg) (s : State) :
    (s.phase.fatal = true ∧ hashOp a s = s) ∨
    (s.phase.fatal = false ∧ s.phase.busy = true ∧ hashOp a s = s.reject causeBusyWrite) ∨
    (s.phase.fatal = false ∧ s.phase.busy = false ∧ s.cfg.msgCap < s.msgLen.toNat ∧
      hashOp a s = s.reject causeLenRange) ∨
    (s.phase.fatal = false ∧ s.phase.busy = false ∧ s.msgLen.toNat ≤ s.cfg.msgCap ∧ hashOp a s = s.accept a) := by
  simp only [hashOp]
  cases s.phase.fatal <;> cases s.phase.busy <;> simp
  by_cases h : s.cfg.msgCap < s.msgLen.toNat
  · exact .inl ⟨h, by simp [h]⟩
  · exact .inr ⟨by omega, by simp [h]⟩

/-- Everything `EXP.alg` can do (41_schedule.md R124 to R126, R128). -/
theorem expOp_cases (a : Alg) (s : State) :
    (¬(16 ≤ s.t.toNat ∧ s.t.toNat ≤ a.rounds - 1) ∧ expOp a s = s.raiseFault) ∨
    (16 ≤ s.t.toNat ∧ s.t.toNat = a.rounds - 1 ∧ expOp a s =
      { s with w := s.w.setIfInBounds s.t.toNat (expandWord a s.w s.t.toNat), phase := .ldv }) ∨
    (16 ≤ s.t.toNat ∧ s.t.toNat < a.rounds - 1 ∧ expOp a s =
      { s with w := s.w.setIfInBounds s.t.toNat (expandWord a s.w s.t.toNat), phase := .exp, t := s.t + 1 }) := by
  by_cases h : 16 ≤ s.t.toNat ∧ s.t.toNat ≤ a.rounds - 1
  · by_cases ht : s.t.toNat = a.rounds - 1
    · exact .inr (.inl ⟨h.1, ht, by rw [expOp, if_pos h]; simp only [if_pos ht]; rfl⟩)
    · exact .inr (.inr ⟨h.1, by omega, by rw [expOp, if_pos h]; simp only [if_neg ht]; rfl⟩)
  · exact .inl ⟨h, by rw [expOp, if_neg h]⟩

/-- Everything `RND.alg` can do (42_compress.md R150 to R152, R154). -/
theorem rndOp_cases (a : Alg) (s : State) :
    (a.rounds - 1 < s.t.toNat ∧ rndOp a s = s.raiseFault) ∨
    (s.t.toNat = a.rounds - 1 ∧ rndOp a s =
      { s with v := roundOf a s.t.toNat s.v (wAt s.w s.t.toNat), phase := .accum }) ∨
    (s.t.toNat < a.rounds - 1 ∧ rndOp a s =
      { s with v := roundOf a s.t.toNat s.v (wAt s.w s.t.toNat), phase := .rnd, t := s.t + 1 }) := by
  by_cases h : s.t.toNat ≤ a.rounds - 1
  · by_cases ht : s.t.toNat = a.rounds - 1
    · exact .inr (.inl ⟨ht, by rw [rndOp, if_pos h]; simp only [if_pos ht]; rfl⟩)
    · exact .inr (.inr ⟨by omega, by rw [rndOp, if_pos h]; simp only [if_neg ht]; rfl⟩)
  · exact .inl ⟨by omega, by rw [rndOp, if_neg h]⟩

/-- The index counts up without wrapping below 127. -/
theorem index_succ {t : BitVec 7} {n : Nat} (h : t.toNat < n) (hn : n ≤ 127) : (t + 1).toNat = t.toNat + 1 := by
  have h1 : (1 : BitVec 7).toNat = 1 := rfl
  rw [BitVec.toNat_add, h1]
  omega

/-- Everything `NEXT` can do (43_accumulator_driver.md R177). -/
theorem nextOp_cases (s : State) :
    (s.bi + 1 = s.nblk ∧ nextOp s = { s with phase := .fin }) ∨
    (s.bi + 1 ≠ s.nblk ∧ nextOp s = { s with phase := .ldblk, bi := s.bi + 1 }) := by
  by_cases h : s.bi + 1 = s.nblk
  · exact .inl ⟨h, by rw [nextOp, if_pos h]; rfl⟩
  · exact .inr ⟨h, by rw [nextOp, if_neg h]; rfl⟩

/-- `LDBLK.alg` stops exactly where the block takes a message byte the memory does not have. -/
theorem outsideAddress_eq_none {a : Alg} {s : State} : s.outsideAddress a = none ↔
    ∀ j, s.bi * a.bs ≤ j → j < s.bi * a.bs + a.bs → j < s.msgLen.toNat → j < s.nblk * a.bs → j < s.cfg.msgCap := by
  simp only [State.outsideAddress]
  split
  · rename_i h
    refine iff_of_false (by simp) fun hall => ?_
    have := hall (max (s.bi * a.bs) s.cfg.msgCap) (by omega) (by omega) (by omega) (by omega)
    omega
  · rename_i h
    exact iff_of_true rfl fun j _ _ _ _ => by omega

/-- Everything `LDBLK.alg` can do (40_padding.md R106 to R108). -/
theorem ldblkOp_cases (a : Alg) (s : State) :
    (∃ addr, s.outsideAddress a = some addr ∧ ldblkOp a s = .fault (.msgOutside addr)) ∨
    (s.outsideAddress a = none ∧ ldblkOp a s =
      .next { s with w := loadBlock a (s.pmRead a) s.bi s.w, phase := .exp, t := 16#7 }) := by
  cases h : s.outsideAddress a with
  | some addr => exact .inl ⟨addr, rfl, by simp only [ldblkOp, h]⟩
  | none => exact .inr ⟨rfl, by simp only [ldblkOp, h]; rfl⟩

/-- A message the memory can hold is never outside it. -/
theorem outsideAddress_none_of_fits {a : Alg} {s : State} (h : s.msgLen.toNat ≤ s.cfg.msgCap) :
    s.outsideAddress a = none :=
  outsideAddress_eq_none.2 fun _ _ _ hl _ => Nat.lt_of_lt_of_le hl h

/-! ## Transactions -/

/-- What a host transaction, once decoded, can be. -/
theorem decodeTxn_cases {x : HostTxn} {i : Instr} (h : decodeTxn x = .instr i) :
    i = .rdCmd ∨ i = .rdStatus ∨ i = .rdMsgLen ∨ (∃ r, i = .rdRsvd r) ∨ (∃ k, i = .rdDigest k) ∨
    (∃ d, i = .wrCmd d) ∨ (∃ d, i = .wrMsgLen d) ∨ (∃ r d, i = .wrRo r d) ∨ (∃ a b, i = .wrb a b) ∨ i = .reset := by
  simp only [decodeTxn, decodeRead, decodeWrite] at h
  repeat' split at h
  all_goals cases h
  all_goals simp

/-- Everything `WR.CMD` can do (44_host_interface.md R195): discarded, `NOP`, a `HASH`, or an illegal word. -/
theorem wrCmd_cases (d : Word) (s : State) :
    (s.phase.fatal = true ∧ exec (.wrCmd d) s = .next s) ∨
    (s.phase.fatal = false ∧ d = 0x00#64 ∧ exec (.wrCmd d) s = .next s) ∨
    (s.phase.fatal = false ∧ (∃ a : Alg, d = BitVec.ofNat 64 (0x10 + a.code.toNat) ∧
      exec (.wrCmd d) s = .next (hashOp a s))) ∨
    (s.phase.fatal = false ∧ (d ≠ 0x00#64 ∧ d ≠ 0x11#64 ∧ d ≠ 0x12#64 ∧ d ≠ 0x13#64) ∧
      exec (.wrCmd d) s = .next (s.reject causeCmdIllegal)) := by
  cases hf : s.phase.fatal
  case true => exact .inl ⟨rfl, by simp [exec, execWrCmd, hf]⟩
  case false =>
    refine .inr ?_
    by_cases h0 : d = 0x00#64
    · subst h0; exact .inl ⟨rfl, rfl, by simp only [exec, execWrCmd, hf]; rfl⟩
    by_cases h1 : d = 0x11#64
    · subst h1; exact .inr (.inl ⟨rfl, .sha1, rfl, by simp only [exec, execWrCmd, hf]; rfl⟩)
    by_cases h2 : d = 0x12#64
    · subst h2; exact .inr (.inl ⟨rfl, .sha256, rfl, by simp only [exec, execWrCmd, hf]; rfl⟩)
    by_cases h3 : d = 0x13#64
    · subst h3; exact .inr (.inl ⟨rfl, .sha512, rfl, by simp only [exec, execWrCmd, hf]; rfl⟩)
    exact .inr (.inr ⟨rfl, ⟨h0, h1, h2, h3⟩, by simp [exec, execWrCmd, hf, decodeCommand, h0, h1, h2, h3]⟩)

/-- Everything `WR.MSG_LEN` can do (44_host_interface.md R192). -/
theorem wrMsgLen_cases (d : Word) (s : State) :
    (s.phase.fatal = true ∧ exec (.wrMsgLen d) s = .next s) ∨
    (s.phase.fatal = false ∧ s.phase.busy = true ∧ exec (.wrMsgLen d) s = .next (s.reject causeBusyWrite)) ∨
    (s.phase.fatal = false ∧ s.phase.busy = false ∧ exec (.wrMsgLen d) s = .next (s.setMsgLen d)) := by
  simp only [exec, execWrMsgLen]
  cases s.phase.fatal <;> cases s.phase.busy <;> simp

/-- Everything `WRB` can do (44_host_interface.md R193). -/
theorem wrb_cases (a : Word) (b : Byte) (s : State) :
    (s.phase.fatal = true ∧ exec (.wrb a b) s = .next s) ∨
    (s.phase.fatal = false ∧ s.phase.busy = true ∧ exec (.wrb a b) s = .next (s.reject causeBusyWrite)) ∨
    (s.phase.fatal = false ∧ s.phase.busy = false ∧ s.cfg.msgCap ≤ a.toNat ∧
      exec (.wrb a b) s = .next (s.reject causeLenRange)) ∨
    (s.phase.fatal = false ∧ s.phase.busy = false ∧ a.toNat < s.cfg.msgCap ∧
      exec (.wrb a b) s = .next (s.storeByte a.toNat b)) := by
  simp only [exec, execWrb]
  cases s.phase.fatal <;> cases s.phase.busy <;> simp
  by_cases h : s.cfg.msgCap ≤ a.toNat
  · exact .inl ⟨h, fun hl => absurd hl (by omega)⟩
  · exact .inr ⟨by omega, fun hl => absurd hl h⟩

/-- What a transaction can do to the core. -/
abbrev HostEffect (i : Instr) (s s' : State) : Prop :=
  s' = s ∨ (∃ r, s' = s.respond r) ∨
  (s.phase.fatal = false ∧ ∃ c, (c = causeCmdIllegal ∨ c = causeBusyWrite ∨ c = causeLenRange) ∧ s' = s.reject c) ∨
  (s.phase.fatal = false ∧ s.phase.busy = false ∧ ∃ d, s' = s.setMsgLen d) ∨
  (s.phase.fatal = false ∧ s.phase.busy = false ∧ ∃ a b, a < s.cfg.msgCap ∧ s' = s.storeByte a b) ∨
  (s.phase.fatal = false ∧ s.phase.busy = false ∧ s.msgLen.toNat ≤ s.cfg.msgCap ∧ ∃ a, s' = s.accept a) ∨
  (i = .reset ∧ s' = s.resetCore)

theorem hashOp_effect {a : Alg} {i : Instr} {s s' : State}
    (e : Host.Outcome.next (hashOp a s) = (.next s' : Host.Outcome State Fault Refusal)) : HostEffect i s s' := by
  rcases hashOp_cases a s with ⟨_, hh⟩ | ⟨hf, _, hh⟩ | ⟨hf, _, _, hh⟩ | ⟨hf, hb, hl, hh⟩ <;> rw [hh] at e <;> cases e
  · exact .inl rfl
  · exact .inr (.inr (.inl ⟨hf, _, .inr (.inl rfl), rfl⟩))
  · exact .inr (.inr (.inl ⟨hf, _, .inr (.inr rfl), rfl⟩))
  · exact .inr (.inr (.inr (.inr (.inr (.inl ⟨hf, hb, hl, a, rfl⟩)))))

/-- Everything a host transaction can do to the core: nothing, return a word, be rejected, write `MSG_LEN`, write
one message byte, start a run, or reset. -/
theorem host_cases {x : HostTxn} {i : Instr} {s s' : State} (hd : decodeTxn x = .instr i)
    (h : exec i s = .next s') :
    HostEffect i s s' := by
  rcases decodeTxn_cases hd with rfl | rfl | rfl | ⟨r, rfl⟩ | ⟨k, rfl⟩ | ⟨d, rfl⟩ | ⟨d, rfl⟩ | ⟨r, d, rfl⟩ | ⟨a, b, rfl⟩ | rfl
  · cases h; exact .inr (.inl ⟨_, rfl⟩)
  · cases h; exact .inr (.inl ⟨_, rfl⟩)
  · cases h; exact .inr (.inl ⟨_, rfl⟩)
  · cases h; exact .inr (.inl ⟨_, rfl⟩)
  · cases h; exact .inr (.inl ⟨_, rfl⟩)
  · rcases wrCmd_cases d s with ⟨-, e⟩ | ⟨-, -, e⟩ | ⟨-, a, -, e⟩ | ⟨hf, -, e⟩ <;> rw [e] at h
    · cases h; exact .inl rfl
    · cases h; exact .inl rfl
    · exact hashOp_effect h
    · cases h; exact .inr (.inr (.inl ⟨hf, _, .inl rfl, rfl⟩))
  · rcases wrMsgLen_cases d s with ⟨-, e⟩ | ⟨hf, -, e⟩ | ⟨hf, hb, e⟩ <;> rw [e] at h <;> cases h
    · exact .inl rfl
    · exact .inr (.inr (.inl ⟨hf, _, .inr (.inl rfl), rfl⟩))
    · exact .inr (.inr (.inr (.inl ⟨hf, hb, d, rfl⟩)))
  · cases h; exact .inl rfl
  · rcases wrb_cases a b s with ⟨-, e⟩ | ⟨hf, -, e⟩ | ⟨hf, -, -, e⟩ | ⟨hf, hb, ha, e⟩ <;> rw [e] at h <;> cases h
    · exact .inl rfl
    · exact .inr (.inr (.inl ⟨hf, _, .inr (.inl rfl), rfl⟩))
    · exact .inr (.inr (.inl ⟨hf, _, .inr (.inr rfl), rfl⟩))
    · exact .inr (.inr (.inr (.inr (.inl ⟨hf, hb, _, _, ha, rfl⟩))))
  · cases h
    exact .inr (.inr (.inr (.inr (.inr (.inr ⟨rfl, rfl⟩)))))

/-- A host transaction always completes. -/
theorem host_completes {x : HostTxn} {i : Instr} (hd : decodeTxn x = .instr i) (s : State) :
    ∃ s', exec i s = .next s' := by
  rcases decodeTxn_cases hd with rfl | rfl | rfl | ⟨r, rfl⟩ | ⟨k, rfl⟩ | ⟨d, rfl⟩ | ⟨d, rfl⟩ | ⟨r, d, rfl⟩ | ⟨a, b, rfl⟩ | rfl
  case inr.inr.inr.inr.inr.inl =>
    rcases wrCmd_cases d s with ⟨-, e⟩ | ⟨-, -, e⟩ | ⟨-, _, -, e⟩ | ⟨-, -, e⟩ <;> exact ⟨_, e⟩
  case inr.inr.inr.inr.inr.inr.inl =>
    rcases wrMsgLen_cases d s with ⟨-, e⟩ | ⟨-, -, e⟩ | ⟨-, -, e⟩ <;> exact ⟨_, e⟩
  case inr.inr.inr.inr.inr.inr.inr.inr.inl =>
    rcases wrb_cases a b s with ⟨-, e⟩ | ⟨-, -, e⟩ | ⟨-, -, -, e⟩ | ⟨-, -, -, e⟩ <;> exact ⟨_, e⟩
  all_goals exact ⟨_, rfl⟩

/-! ## Micro-operations -/

/-- The micro-operation a phase and an algorithm select, by what it does. -/
def microResult (a : Alg) (s : State) : Host.Outcome State Fault Refusal :=
  match s.phase with
  | .pad => .next (padOp a s)
  | .init => .next (initOp a s)
  | .ldblk => ldblkOp a s
  | .exp => .next (expOp a s)
  | .ldv => .next (ldvOp a s)
  | .rnd => .next (rndOp a s)
  | .accum => .next (accumOp a s)
  | .next => .next (nextOp s)
  | .fin => .next (s.goto .done s.bi s.t)
  | .idle | .done | .fault | .reservedB | .reservedC | .reservedD | .reservedE => .next s

/-- A busy core with an algorithm decodes a micro-operation, and `exec` of it is the phase's operation. -/
theorem micro_run {a : Alg} {s : State} (hb : s.phase.busy = true) (ha : s.alg = a.code) :
    ∃ i, decodeMicro s.microCode = .instr i ∧ exec i s = microResult a s := by
  have hp : ∀ p, s.phase = p → Phase.ofCode (microPhase s.microCode) = p := fun p e => by
    rw [State.microCode, microPhase_microCode, Phase.ofCode_code, e]
  have hal : microAlg s.microCode = a.code := by rw [State.microCode, microAlg_microCode, ha]
  simp only [decodeMicro, microResult, hal]
  cases hph : s.phase <;> simp only [hph, Phase.busy] at hb <;> rw [hp _ hph] <;> cases a <;> first
    | exact ⟨_, rfl, rfl⟩
    | cases hb

/-- What the sequencer's turn is, by phase and algorithm. -/
theorem fetchMicro_cases (s : State) :
    (∃ a i, s.phase.busy = true ∧ s.alg = a.code ∧ fetchMicro s = .run i s ∧ exec i s = microResult a s) ∨
    ((s.phase = .idle ∨ s.phase = .done ∨ s.phase = .fault) ∧ fetchMicro s = .move s) ∨
    (((s.phase.busy = true ∧ s.alg = 0#2) ∨ s.phase = .reservedB ∨ s.phase = .reservedC ∨ s.phase = .reservedD ∨
      s.phase = .reservedE) ∧ fetchMicro s = .move s.raiseFault) := by
  have hp : ∀ p, s.phase = p → Phase.ofCode (microPhase s.microCode) = p := fun p e => by
    rw [State.microCode, microPhase_microCode, Phase.ofCode_code, e]
  by_cases hb : s.phase.busy = true
  · rcases byAlg_cases s.alg fun _ => .nop with ⟨a, ha, -⟩ | ⟨h0, -⟩
    · obtain ⟨i, hi, hx⟩ := micro_run hb ha
      exact .inl ⟨a, i, hb, ha, by simp only [fetchMicro, hi], hx⟩
    · refine .inr (.inr ⟨.inl ⟨hb, h0⟩, ?_⟩)
      have hal : microAlg s.microCode = 0#2 := by rw [State.microCode, microAlg_microCode, h0]
      simp only [fetchMicro, decodeMicro, hal]
      cases hph : s.phase <;> simp only [hph, Phase.busy] at hb <;> rw [hp _ hph] <;> first
        | rfl
        | cases hb
  · cases hph : s.phase <;> first
      | exact absurd (by rw [hph]; rfl) hb
      | (refine .inr (.inl ⟨?_, ?_⟩)
         · first | exact .inl rfl | exact .inr (.inl rfl) | exact .inr (.inr rfl)
         · simp only [fetchMicro, decodeMicro]
           rw [hp _ hph])
      | (refine .inr (.inr ⟨by simp, ?_⟩)
         simp only [fetchMicro, decodeMicro]
         rw [hp _ hph])

/-- What no micro-operation writes: the message, its length, the algorithm, the host's turns, the configuration. -/
theorem microResult_keeps {a : Alg} {s s' : State} (h : microResult a s = .next s') :
    s'.msg = s.msg ∧ s'.msgLen = s.msgLen ∧ s'.alg = s.alg ∧ s'.turns = s.turns ∧ s'.cfg = s.cfg ∧ s'.chip = s.chip := by
  simp only [microResult] at h
  cases hp : s.phase <;> simp only [hp] at h
  case ldblk =>
    rcases ldblkOp_cases a s with ⟨_, -, e⟩ | ⟨-, e⟩ <;> rw [e] at h <;> cases h
    exact ⟨rfl, rfl, rfl, rfl, rfl, rfl⟩
  case exp =>
    cases h
    rcases expOp_cases a s with ⟨-, e⟩ | ⟨-, -, e⟩ | ⟨-, -, e⟩ <;> rw [e] <;> exact ⟨rfl, rfl, rfl, rfl, rfl, rfl⟩
  case rnd =>
    cases h
    rcases rndOp_cases a s with ⟨-, e⟩ | ⟨-, e⟩ | ⟨-, e⟩ <;> rw [e] <;> exact ⟨rfl, rfl, rfl, rfl, rfl, rfl⟩
  case next =>
    cases h
    rcases nextOp_cases s with ⟨-, e⟩ | ⟨-, e⟩ <;> rw [e] <;> exact ⟨rfl, rfl, rfl, rfl, rfl, rfl⟩
  all_goals cases h; exact ⟨rfl, rfl, rfl, rfl, rfl, rfl⟩

/-! ## One step -/

/-- Everything a step can do: the host's transaction; the sequencer's micro-operation; nothing, where the
sequencer has no step; or the fault, at a reserved code. -/
theorem step_cases {s s' : State} (h : step s = .next s') :
    (∃ x rest i, s.turns = .host x :: rest ∧ decodeTxn x = .instr i ∧ exec i s.popTurn = .next s') ∨
    ((∀ x rest, s.turns ≠ .host x :: rest) ∧
      ((∃ a, s.phase.busy = true ∧ s.alg = a.code ∧ microResult a s.popTurn = .next s') ∨
       ((s.phase = .idle ∨ s.phase = .done ∨ s.phase = .fault) ∧ s' = s.popTurn) ∨
       (((s.phase.busy = true ∧ s.alg = 0#2) ∨ s.phase = .reservedB ∨ s.phase = .reservedC ∨ s.phase = .reservedD ∨
          s.phase = .reservedE) ∧ s' = s.popTurn.raiseFault))) := by
  have seq : fetch s = fetchMicro s.popTurn →
      ((∃ a, s.phase.busy = true ∧ s.alg = a.code ∧ microResult a s.popTurn = .next s') ∨
       ((s.phase = .idle ∨ s.phase = .done ∨ s.phase = .fault) ∧ s' = s.popTurn) ∨
       (((s.phase.busy = true ∧ s.alg = 0#2) ∨ s.phase = .reservedB ∨ s.phase = .reservedC ∨ s.phase = .reservedD ∨
          s.phase = .reservedE) ∧ s' = s.popTurn.raiseFault)) := fun hf => by
    rcases fetchMicro_cases s.popTurn with ⟨a, i, hb, ha, hr, hx⟩ | ⟨hq, hr⟩ | ⟨hq, hr⟩ <;>
      simp only [step, hf, hr] at h
    · exact .inl ⟨a, hb, ha, by rw [← hx, h]⟩
    · cases h; exact .inr (.inl ⟨hq, rfl⟩)
    · cases h; exact .inr (.inr ⟨hq, rfl⟩)
  cases ht : s.turns with
  | nil => exact .inr ⟨by simp, seq (by simp only [fetch, ht])⟩
  | cons u rest =>
    cases u with
    | seq => exact .inr ⟨by simp, seq (by simp only [fetch, ht])⟩
    | host x =>
      refine .inl ⟨x, rest, ?_⟩
      cases hd : decodeTxn x with
      | instr i => exact ⟨i, rfl, rfl, by simpa only [step, fetch, ht, fetchHost, hd] using h⟩
      | reject r => simp only [step, fetch, ht, fetchHost, hd] at h; cases h

/-- A step takes one turn off the list. -/
theorem step_turns {s s' : State} (h : step s = .next s') : s'.turns = s.turns.tail := by
  rcases step_cases h with ⟨x, rest, i, -, hd, hx⟩ | ⟨-, ⟨a, -, -, hm⟩ | ⟨-, rfl⟩ | ⟨-, rfl⟩⟩
  · rcases host_cases hd hx with rfl | ⟨r, rfl⟩ | ⟨-, c, -, rfl⟩ | ⟨-, -, d, rfl⟩ | ⟨-, -, x, b, -, rfl⟩ |
      ⟨-, -, -, a, rfl⟩ | ⟨-, rfl⟩ <;> rfl
  · exact (microResult_keeps hm).2.2.2.1
  · rfl
  · rfl

end Machine

end Sys2Proof
end

