-- ==== Sys2Proof/Tests/Slice0.lean ====
section
/-! SUPPORT. Tests. Expected values are the spec's: the codes of 30_encoding.md, the vectors of 95_test_vectors.md
(sections 2 to 7), the generating rule of 10_state.md R47. Each test of an instruction is one step on a small state.
The second half, `witness_…`, shows for every statement with hypotheses concrete values that meet them. -/

open Sys2Proof Sys2Proof.Machine

namespace Sys2Proof.Tests

/-! ## Small states -/

/-- A field of the next state; none after a fault or a refusal. -/
def after {α : Type} (o : Host.Outcome State Fault Refusal) (f : State → α) : Option α :=
  match o with
  | .next s => some (f s)
  | .fault _ => none
  | .refused _ => none

/-- A core at power-on with the 64-byte memory of 95_test_vectors.md P4. -/
def small : State := State.powerOn ⟨64, 64⟩ 0

/-- A core that holds "abc", at a phase of a run under an algorithm. -/
def abc (a : Alg) (p : Phase) : State :=
  { State.powerOn ⟨64, 65536⟩ 0 with
    alg := a.code, phase := p, msgLen := 3, msg := [(0, 0x61), (1, 0x62), (2, 0x63)], nblk := 1
    padp := if a = .sha512 then 108 else 52 }

/-- The schedule of a block with the sixteen words given. -/
def words (x0 x15 : Word) : Vector Word 80 := ((Vector.replicate 80 0).set 0 x0).set 15 x15

/-! ## Well-formedness and decoding -/

theorem test_wf_refuses_rsvd_below : (Instr.rdRsvd 2).wf = false := by decide
theorem test_wf_refuses_rsvd_above : (Instr.rdRsvd 8).wf = false := by decide
theorem test_wf_refuses_ro_cmd : (Instr.wrRo 0 5).wf = false := by decide
theorem test_wf_refuses_ro_msg_len : (Instr.wrRo 2 5).wf = false := by decide
theorem test_wf_accepts_the_bounds : (Instr.rdRsvd 3).wf = true ∧ (Instr.rdRsvd 7).wf = true ∧
    (Instr.wrRo 1 5).wf = true ∧ (Instr.wrRo 3 5).wf = true ∧ (Instr.wrRo 15 5).wf = true := by decide

/-- 30_encoding.md R86: OP in bits 7:4, ALGSEL in bits 1:0. -/
theorem test_decode_commands :
    decode (.command 0b00000000#64) = .instr .nop ∧ decode (.command 0b00010001#64) = .instr .hashSha1 ∧
    decode (.command 0b00010010#64) = .instr .hashSha256 ∧ decode (.command 0b00010011#64) = .instr .hashSha512 := by
  decide

/-- 30_encoding.md R90, 95_test_vectors.md section 7 and P4. -/
theorem test_decode_illegal_commands :
    decode (.command 0x10#64) = .reject .illegalCommand ∧ decode (.command 0x14#64) = .reject .illegalCommand ∧
    decode (.command 0x113#64) = .reject .illegalCommand ∧
    decode (.command 0x0000000100000011#64) = .reject .illegalCommand ∧
    decode (.command 0x01#64) = .reject .illegalCommand ∧ decode (.command 0x77#64) = .reject .illegalCommand := by
  decide

/-- 30_encoding.md R87: PHASE in bits 5:2, ALG in bits 1:0; the codes of 95_test_vectors.md P1 and P2. -/
theorem test_decode_padding_stage :
    decode (.micro 0b000101#6) = .instr .padSha1 ∧ decode (.micro 0b000110#6) = .instr .padSha256 ∧
    decode (.micro 0b000111#6) = .instr .padSha512 ∧ decode (.micro 0b001101#6) = .instr .ldblkSha1 ∧
    decode (.micro 0b001110#6) = .instr .ldblkSha256 ∧ decode (.micro 0b001111#6) = .instr .ldblkSha512 := by decide

theorem test_decode_expander :
    decode (.micro 0b010001#6) = .instr .expSha1 ∧ decode (.micro 0b010010#6) = .instr .expSha256 ∧
    decode (.micro 0b010011#6) = .instr .expSha512 := by decide

theorem test_decode_rounds :
    decode (.micro 0b010101#6) = .instr .ldvSha1 ∧ decode (.micro 0b010110#6) = .instr .ldvSha256 ∧
    decode (.micro 0b010111#6) = .instr .ldvSha512 ∧ decode (.micro 0b011001#6) = .instr .rndSha1 ∧
    decode (.micro 0b011010#6) = .instr .rndSha256 ∧ decode (.micro 0b011011#6) = .instr .rndSha512 := by decide

theorem test_decode_accumulator :
    decode (.micro 0b001001#6) = .instr .initSha1 ∧ decode (.micro 0b001010#6) = .instr .initSha256 ∧
    decode (.micro 0b001011#6) = .instr .initSha512 ∧ decode (.micro 0b011101#6) = .instr .accumSha1 ∧
    decode (.micro 0b011110#6) = .instr .accumSha256 ∧ decode (.micro 0b011111#6) = .instr .accumSha512 := by decide

theorem test_decode_driver :
    decode (.micro 0x21#6) = .instr (.next .sha1) ∧ decode (.micro 0x22#6) = .instr (.next .sha256) ∧
    decode (.micro 0x23#6) = .instr (.next .sha512) ∧ decode (.micro 0x25#6) = .instr (.fin .sha1) ∧
    decode (.micro 0x26#6) = .instr (.fin .sha256) ∧ decode (.micro 0x27#6) = .instr (.fin .sha512) := by decide

/-- 30_encoding.md R92: `ALG = 0` and the phases 0xB to 0xE are reserved; R87: IDLE, DONE, FAULT select nothing. -/
theorem test_decode_micro_rejects :
    decode (.micro 0x04#6) = .reject .reservedMicro ∧ decode (.micro 0x24#6) = .reject .reservedMicro ∧
    decode (.micro 0x2D#6) = .reject .reservedMicro ∧ decode (.micro 0x3B#6) = .reject .reservedMicro ∧
    decode (.micro 0x01#6) = .reject .noOperation ∧ decode (.micro 0x28#6) = .reject .noOperation ∧
    decode (.micro 0x3F#6) = .reject .noOperation := by decide

/-- 30_encoding.md R88: KIND in bits 5:4 (0 `RD`), REG in bits 3:0. -/
theorem test_decode_reads :
    decode (.txn ⟨0x00#6, 0, 0⟩) = .instr .rdCmd ∧ decode (.txn ⟨0x01#6, 0, 0⟩) = .instr .rdStatus ∧
    decode (.txn ⟨0x02#6, 0, 0⟩) = .instr .rdMsgLen ∧ decode (.txn ⟨0x03#6, 0, 0⟩) = .instr (.rdRsvd 3#4) ∧
    decode (.txn ⟨0x07#6, 0, 0⟩) = .instr (.rdRsvd 7#4) ∧ decode (.txn ⟨0x08#6, 0, 0⟩) = .instr (.rdDigest 0#3) ∧
    decode (.txn ⟨0x0F#6, 0, 0⟩) = .instr (.rdDigest 7#3) := by decide

/-- 30_encoding.md R88: KIND 1 `WR`, 2 `WRB`, 3 `RESET`. -/
theorem test_decode_writes :
    decode (.txn ⟨0x10#6, 0, 0x12#64⟩) = .instr (.wrCmd 0x12#64) ∧
    decode (.txn ⟨0x12#6, 0, 56#64⟩) = .instr (.wrMsgLen 56#64) ∧
    decode (.txn ⟨0x11#6, 0, 0xFFF#64⟩) = .instr (.wrRo 1#4 0xFFF#64) ∧
    decode (.txn ⟨0x18#6, 0, 0x1234#64⟩) = .instr (.wrRo 8#4 0x1234#64) ∧
    decode (.txn ⟨0x20#6, 2#64, 0x63#64⟩) = .instr (.wrb 2#64 0x63#8) ∧
    decode (.txn ⟨0x30#6, 0, 0⟩) = .instr .reset := by decide

theorem test_decode_no_transaction :
    decode (.txn ⟨0x21#6, 0, 0⟩) = .reject .noTransaction ∧ decode (.txn ⟨0x2F#6, 0, 0⟩) = .reject .noTransaction ∧
    decode (.txn ⟨0x31#6, 0, 0⟩) = .reject .noTransaction ∧ decode (.txn ⟨0x3F#6, 0, 0⟩) = .reject .noTransaction := by
  decide

/-- One row of each format through the opcode table's view, and a step that runs it first after reset. -/
theorem test_table_words :
    decodeTableWord 64 0x13 = some .hashSha512 ∧ decodeTableWord 8 0x1B = some .rndSha512 ∧
    decodeTableWord 8 0x30 = some .reset ∧ decodeTableWord 8 0x24 = none := by decide

theorem test_fetch_word_runs_it :
    after (step (State.reset.withFetchWord 64 0x13)) State.phase = some .pad ∧
    after (step (State.reset.withFetchWord 8 0x0B)) State.phase = some .ldblk ∧
    after (step (State.reset.withFetchWord 8 0x01)) State.reply = some (some 0#64) := by decide

/-! ## Function units (95_test_vectors.md section 2) -/

theorem test_rotations : rotl 0x12345678#32 1 = 0x2468ACF0#32 ∧ rotl 0x12345678#32 5 = 0x468ACF02#32 ∧
    rotl 0x12345678#32 30 = 0x048D159E#32 ∧ rotr 0x12345678#32 2 = 0x048D159E#32 ∧
    rotl 0x80000000#32 1 = 0x00000001#32 := by decide

theorem test_sigmas_256 : ssig0Sha256 0x12345678#32 = 0xE7FCE6EE#32 ∧ ssig1Sha256 0x12345678#32 = 0xA1F78649#32 ∧
    bsig0Sha256 0x12345678#32 = 0x66146474#32 ∧ bsig1Sha256 0x12345678#32 = 0x3561ABDA#32 := by decide

theorem test_sigmas_256_ones : ssig0Sha256 0xFFFFFFFF#32 = 0x1FFFFFFF#32 ∧ ssig1Sha256 0xFFFFFFFF#32 = 0x003FFFFF#32 ∧
    bsig0Sha256 0xFFFFFFFF#32 = 0xFFFFFFFF#32 ∧ bsig1Sha256 0xFFFFFFFF#32 = 0xFFFFFFFF#32 := by decide

theorem test_sigmas_512 :
    ssig0Sha512 0x0123456789ABCDEF#64 = 0x6F92C77C6C4F1AA1#64 ∧
    ssig1Sha512 0x0123456789ABCDEF#64 = 0x70A3460DBBD4317A#64 ∧
    bsig0Sha512 0x0123456789ABCDEF#64 = 0xB7C57A100C7EC1AB#64 ∧
    bsig1Sha512 0x0123456789ABCDEF#64 = 0x7703112333475567#64 := by decide

theorem test_boolean_functions :
    ch 0xF0F0F0F0#32 0xCCCCCCCC#32 0xAAAAAAAA#32 = 0xCACACACA#32 ∧
    parity 0xF0F0F0F0#32 0xCCCCCCCC#32 0xAAAAAAAA#32 = 0x96969696#32 ∧
    maj 0xF0F0F0F0#32 0xCCCCCCCC#32 0xAAAAAAAA#32 = 0xE8E8E8E8#32 ∧
    fSha1 0 0xEFCDAB89#32 0x98BADCFE#32 0x10325476#32 = 0x98BADCFE#32 := by decide

/-! ## The tables (10_state.md R47, "a model may test its own copy the same way") -/

/-- The first eighty primes, `prime(0) = 2` to `prime(79) = 409`. -/
def primes : List Nat := ((List.range 410).filter fun n => 2 ≤ n && (List.range 21).all fun d => d < 2 || n ≤ d || n % d != 0)

/-- `k` is `frac_64(cbrt(p))`: some `c * 2^64 + k` is the integer cube root of `p * 2^192`. -/
def isCubeRootFraction (p k : Nat) : Bool :=
  (List.range 8).any fun c => (c * 2 ^ 64 + k) ^ 3 ≤ p * 2 ^ 192 && p * 2 ^ 192 < (c * 2 ^ 64 + k + 1) ^ 3

/-- `k` is `frac_64(sqrt(p))`. -/
def isSquareRootFraction (p k : Nat) : Bool :=
  (List.range 5).any fun c => (c * 2 ^ 64 + k) ^ 2 ≤ p * 2 ^ 128 && p * 2 ^ 128 < (c * 2 ^ 64 + k + 1) ^ 2

theorem test_primes : primes.length = 80 ∧ primes.getLast? = some 409 := by decide +kernel

theorem test_k512_is_cube_roots :
    ((primes.zip kTable512).all fun x => isCubeRootFraction x.1 x.2.toNat) = true ∧ kTable512.length = 80 := by
  decide +kernel

theorem test_k256_is_high_half_of_k512 :
    kTable256 = (kTable512.take 64).map fun (k : BitVec 64) => k.extractLsb' 32 32 := by decide +kernel

theorem test_iv512_is_square_roots :
    ((primes.zip ivSha512.toList).all fun x => isSquareRootFraction x.1 x.2.toNat) = true := by decide +kernel

theorem test_iv256_is_high_half_of_iv512 :
    ivSha256 = ivSha512.map fun (k : BitVec 64) => k.extractLsb' 32 32 := by decide +kernel

/-- `floor(2^30 * sqrt(c))` for `c = 2, 3, 5, 10`. -/
theorem test_k1_is_square_roots :
    ([(2, 0), (3, 20), (5, 40), (10, 79)].all fun x =>
      (kSha1 x.2).toNat ^ 2 ≤ x.1 * 2 ^ 60 && x.1 * 2 ^ 60 < ((kSha1 x.2).toNat + 1) ^ 2) = true := by decide +kernel

/-! ## The padding stage (95_test_vectors.md section 3) -/

/-- `L`, then `p` and `NB` at 64 bytes, then at 128. -/
def padRows : List (Nat × Nat × Nat × Nat × Nat) :=
  [(0, 55, 1, 111, 1), (1, 54, 1, 110, 1), (3, 52, 1, 108, 1), (54, 1, 1, 57, 1), (55, 0, 1, 56, 1), (56, 63, 2, 55, 1),
   (63, 56, 2, 48, 1), (64, 55, 2, 47, 1), (111, 8, 2, 0, 1), (112, 7, 2, 127, 2), (119, 0, 2, 120, 2),
   (120, 63, 3, 119, 2), (239, 8, 4, 0, 2), (240, 7, 4, 127, 3), (15000, 31, 235, 87, 118),
   (1000000, 55, 15626, 47, 7813)]

theorem test_padding_rows :
    (padRows.all fun r => decide (padLen .sha1 r.1 = r.2.1 ∧ blockCount .sha1 r.1 = r.2.2.1 ∧
      padLen .sha256 r.1 = r.2.1 ∧ blockCount .sha256 r.1 = r.2.2.1 ∧
      padLen .sha512 r.1 = r.2.2.2.1 ∧ blockCount .sha512 r.1 = r.2.2.2.2)) = true := by decide +kernel

theorem test_pad_sha1 : after (exec .padSha1 { small with msgLen := 56 }) (fun t => (t.padp, t.nblk, t.phase)) =
    some (63#7, 2, .init) := by decide
theorem test_pad_sha256 : after (exec .padSha256 { small with msgLen := 55 }) (fun t => (t.padp, t.nblk, t.phase)) =
    some (0#7, 1, .init) := by decide
theorem test_pad_sha512 : after (exec .padSha512 { small with msgLen := 112 }) (fun t => (t.padp, t.nblk, t.phase)) =
    some (127#7, 2, .init) := by decide

theorem test_padded_bytes : (abc .sha1 .ldblk).pmRead .sha1 2 = 0x63#8 ∧ (abc .sha1 .ldblk).pmRead .sha1 3 = 0x80#8 ∧
    (abc .sha1 .ldblk).pmRead .sha1 55 = 0x00#8 ∧ (abc .sha1 .ldblk).pmRead .sha1 63 = 0x18#8 ∧
    (abc .sha512 .ldblk).pmRead .sha512 126 = 0x00#8 ∧ (abc .sha512 .ldblk).pmRead .sha512 127 = 0x18#8 := by decide

theorem test_ldblk_sha1 : after (exec .ldblkSha1 (abc .sha1 .ldblk)) (fun t => (t.w, t.phase, t.t)) =
    some (words 0x61626380 0x18, .exp, 16#7) := by decide +kernel
theorem test_ldblk_sha256 : after (exec .ldblkSha256 (abc .sha256 .ldblk)) (fun t => (t.w, t.phase, t.t)) =
    some (words 0x61626380 0x18, .exp, 16#7) := by decide +kernel
theorem test_ldblk_sha512 : after (exec .ldblkSha512 (abc .sha512 .ldblk)) (fun t => (t.w, t.phase, t.t)) =
    some (words 0x6162638000000000 0x18, .exp, 16#7) := by decide +kernel
/-- The second block of a 56-byte message, whose bytes are not read: `W[15] = 000001C0`. -/
theorem test_ldblk_second_block :
    after (exec .ldblkSha256 { abc .sha256 .ldblk with msgLen := 56, padp := 63, nblk := 2, bi := 1 }) State.w =
    some (words 0 0x1C0) := by decide +kernel

/-! ## The schedule (95_test_vectors.md section 4) -/

theorem test_exp_sha1 : after (exec .expSha1 { abc .sha1 .exp with w := words 0x61626380 0x18, t := 16 })
    (fun t => (t.w, t.phase, t.t)) = some ((words 0x61626380 0x18).set 16 0xC2C4C700, .exp, 17#7) := by decide +kernel
theorem test_exp_sha256 : after (exec .expSha256 { abc .sha256 .exp with w := words 0x61626380 0x18, t := 17 })
    (fun t => (t.w, t.phase, t.t)) = some ((words 0x61626380 0x18).set 17 0x000F0000, .exp, 18#7) := by decide +kernel
theorem test_exp_sha512 : after (exec .expSha512 { abc .sha512 .exp with w := words 0x6162638000000000 0x18, t := 17 })
    (fun t => (t.w, t.phase, t.t)) = some ((words 0x6162638000000000 0x18).set 17 0x00030000000000C0, .exp, 18#7) := by
  decide +kernel
/-- 95_test_vectors.md P5: `EXP.SHA256` at `T = 64` is the fault. -/
theorem test_exp_fault : after (exec .expSha256 { abc .sha256 .exp with t := 64 }) (fun t => (t.phase, t.err, t.status)) =
    some (.fault, 1#4, 0x124#64) := by decide
theorem test_exp_last : after (exec .expSha256 { abc .sha256 .exp with t := 63 }) (fun t => (t.phase, t.t)) =
    some (.ldv, 63#7) := by decide

/-! ## The rounds (95_test_vectors.md section 5) -/

theorem test_ldv_sha1 : after (exec .ldvSha1 { abc .sha1 .ldv with acc := initialAcc .sha1, v := Vector.replicate 8 9 })
    (fun t => (t.v, t.phase, t.t)) =
    some (#v[0x67452301, 0xEFCDAB89, 0x98BADCFE, 0x10325476, 0xC3D2E1F0, 9, 9, 9], .rnd, 0#7) := by decide
theorem test_ldv_sha256 : after (exec .ldvSha256 { abc .sha256 .ldv with acc := Vector.replicate 8 0xFFFFFFFF00000001 })
    State.v = some (Vector.replicate 8 1) := by decide
theorem test_ldv_sha512 : after (exec .ldvSha512 { abc .sha512 .ldv with acc := Vector.replicate 8 0xFFFFFFFF00000001 })
    State.v = some (Vector.replicate 8 0xFFFFFFFF00000001) := by decide

theorem test_rnd_sha1 : after (exec .rndSha1 { abc .sha1 .rnd with v := initialAcc .sha1, w := words 0x61626380 0x18 })
    (fun t => (t.v, t.phase, t.t)) =
    some (#v[0x0116FC33, 0x67452301, 0x7BF36AE2, 0x98BADCFE, 0x10325476, 0, 0, 0], .rnd, 1#7) := by decide +kernel
/-- `RND.SHA1` at 20, the first round of the second range, `W[20] = 0`. -/
theorem test_rnd_sha1_second_range :
    after (exec .rndSha1 { abc .sha1 .rnd with
      v := #v[0xFD9E1D7D, 0xDC64901D, 0x20AA99CA, 0xD3A49608, 0xC82F758B, 0, 0, 0], t := 20 }) State.v =
    some #v[0x1A37B0CA, 0xFD9E1D7D, 0x77192407, 0x20AA99CA, 0xD3A49608, 0, 0, 0] := by decide +kernel
theorem test_rnd_sha256 : after (exec .rndSha256 { abc .sha256 .rnd with v := initialAcc .sha256, w := words 0x61626380 0x18 })
    State.v = some #v[0x5D6AEBCD, 0x6A09E667, 0xBB67AE85, 0x3C6EF372, 0xFA2A4622, 0x510E527F, 0x9B05688C, 0x1F83D9AB] := by
  decide +kernel
theorem test_rnd_sha512 : after (exec .rndSha512 { abc .sha512 .rnd with v := initialAcc .sha512, w := words 0x6162638000000000 0x18 })
    State.v = some #v[0xF6AFCEB8BCFCDDF5, 0x6A09E667F3BCC908, 0xBB67AE8584CAA73B, 0x3C6EF372FE94F82B, 0x58CB02347AB51F91,
      0x510E527FADE682D1, 0x9B05688C2B3E6C1F, 0x1F83D9ABFB41BD6B] := by decide +kernel

/-! ## The accumulator and the block loop (95_test_vectors.md section 5, P1, P3) -/

theorem test_init_sha1 : after (exec .initSha1 { abc .sha1 .init with acc := Vector.replicate 8 9 })
    (fun t => (t.acc, t.bi, t.phase)) =
    some (#v[0x67452301, 0xEFCDAB89, 0x98BADCFE, 0x10325476, 0xC3D2E1F0, 0, 0, 0], 0, .ldblk) := by decide
theorem test_init_sha256 : after (exec .initSha256 { abc .sha256 .init with bi := 7 }) (fun t => (t.acc[7], t.bi)) =
    some (0x5BE0CD19, 0) := by decide
theorem test_init_sha512 : after (exec .initSha512 (abc .sha512 .init)) (fun t => t.acc[0]) = some 0x6A09E667F3BCC908 := by
  decide

theorem test_accum_sha1 : after (exec .accumSha1 { abc .sha1 .accum with
      acc := initialAcc .sha1, v := #v[0x42541B35, 0x5738D5E1, 0x21834873, 0x681E6DF6, 0xD8FDF6AD, 7, 7, 7] })
    (fun t => (t.acc, t.phase)) =
    some (#v[0xA9993E36, 0x4706816A, 0xBA3E2571, 0x7850C26C, 0x9CD0D89D, 0, 0, 0], .next) := by decide
theorem test_accum_sha256 : after (exec .accumSha256 { abc .sha256 .accum with
      acc := initialAcc .sha256
      v := #v[0x506E3058, 0xD39A2165, 0x04D24D6C, 0xB85E2CE9, 0x5EF50F24, 0xFB121210, 0x948D25B6, 0x961F4894] }) State.acc =
    some #v[0xBA7816BF, 0x8F01CFEA, 0x414140DE, 0x5DAE2223, 0xB00361A3, 0x96177A9C, 0xB410FF61, 0xF20015AD] := by decide
theorem test_accum_sha512 : after (exec .accumSha512 { abc .sha512 .accum with
      acc := initialAcc .sha512
      v := #v[0x73A54F399FA4B1B2, 0x10D9C4C4295599F6, 0xD67806DB8B148677, 0x654EF9ABEC389CA9, 0xD08446AA79693ED7,
        0x9BB4D39778C07F9E, 0x25C96A7768FB2AA3, 0xCEB9FC3691CE8326] }) State.acc =
    some #v[0xDDAF35A193617ABA, 0xCC417349AE204131, 0x12E6FA4E89A97EA2, 0x0A9EEEE64B55D39A, 0x2192992A274FC1A8,
      0x36BA3C23A3FEEBBD, 0x454D4423643CE80E, 0x2A9AC94FA54CA49F] := by decide

theorem test_next_to_the_next_block : after (exec (.next .sha256) { abc .sha256 .next with nblk := 2 })
    (fun t => (t.phase, t.bi)) = some (.ldblk, 1) := by decide
theorem test_next_to_the_end : after (exec (.next .sha256) { abc .sha256 .next with nblk := 2, bi := 1 })
    (fun t => (t.phase, t.bi)) = some (.fin, 1) := by decide
theorem test_fin : after (exec (.fin .sha1) (abc .sha1 .fin)) (fun t => (t.phase, t.status)) = some (.done, 0x012#64) := by
  decide

/-! ## The host interface (95_test_vectors.md section 7, P3 to P6) -/

theorem test_nop : after (exec .nop { abc .sha256 .rnd with err := 2 }) State.status = some 0x221#64 := by decide
theorem test_hash_sha1_at_capacity : after (exec .hashSha1 { small with msgLen := 64 }) State.status = some 0x011#64 := by
  decide
theorem test_hash_sha1_while_busy : after (exec .hashSha1 (abc .sha256 .exp)) (fun t => (t.status, t.alg, t.phase)) =
    some (0x321#64, 2#2, .exp) := by decide
theorem test_hash_sha256_too_long : after (exec .hashSha256 { small with msgLen := 65 })
    (fun t => (t.status, t.phase, t.alg)) = some (0x400#64, .idle, 0#2) := by decide
theorem test_hash_sha256_clears_err : after (exec .hashSha256 { small with err := 2 }) State.status = some 0x021#64 := by
  decide
theorem test_hash_sha512_in_done : after (exec .hashSha512 (abc .sha256 .done)) (fun t => (t.status, t.digestReg 0)) =
    some (0x031#64, 0#64) := by decide

theorem test_rd_status_fault : after (exec .rdStatus { abc .sha512 .fault with err := 1 }) State.reply =
    some (some 0x134#64) := by decide
theorem test_rd_status_done : after (exec .rdStatus { abc .sha256 .done with err := 3 }) State.reply =
    some (some 0x322#64) := by decide
theorem test_rd_cmd : after (exec .rdCmd { small with reply := some 5 }) State.reply = some (some 0) := by decide
theorem test_rd_msg_len : after (exec .rdMsgLen { small with msgLen := 3 }) State.reply = some (some 3) := by decide
theorem test_rd_rsvd : after (exec (.rdRsvd 7) { small with reply := some 5 }) State.reply = some (some 0) := by decide
theorem test_rd_digest_done : after (exec (.rdDigest 0) { abc .sha256 .done with acc := Vector.replicate 8 0x248D6A61 })
    State.reply = some (some 0x248D6A61) := by decide
theorem test_rd_digest_busy : after (exec (.rdDigest 0) { abc .sha256 .next with acc := Vector.replicate 8 0x248D6A61 })
    State.reply = some (some 0) := by decide

theorem test_wr_cmd_illegal_while_busy : after (exec (.wrCmd 0x77) { abc .sha256 .exp with err := 3 }) State.status =
    some 0x221#64 := by decide
theorem test_wr_cmd_in_fault : after (exec (.wrCmd 0x77) { abc .sha256 .fault with err := 1 }) State.status =
    some 0x124#64 := by decide
theorem test_wr_msg_len_busy : after (exec (.wrMsgLen 5) (abc .sha256 .exp)) (fun t => (t.status, t.msgLen)) =
    some (0x321#64, 3#64) := by decide
/-- 10_state.md R38: `MSG_LEN <- data[LENW-1:0]`, here with `LENW = 8`. -/
theorem test_wr_msg_len_narrow : after (exec (.wrMsgLen 0x1FF) (State.powerOn ⟨8, 64⟩ 0)) State.msgLen = some 0xFF#64 := by
  decide
theorem test_wr_ro : after (exec (.wrRo 1 0xFFF) { small with err := 2 }) State.status = some 0x200#64 := by decide
theorem test_wrb_beyond : after (exec (.wrb 64 1) small) (fun t => (t.status, t.msg)) = some (0x400#64, []) := by decide
theorem test_wrb_order : after (exec (.wrb 1 0x62) { small with msg := [(0, 0x61), (2, 0x63)] }) State.msg =
    some [(0, 0x61), (1, 0x62), (2, 0x63)] := by decide
theorem test_reset : after (exec .reset { abc .sha256 .fault with err := 1 })
    (fun t => (t.status, t.msgLen, t.msg, t.phase)) = some (0#64, 0#64, [(0, 0x61), (1, 0x62), (2, 0x63)], .idle) := by decide

/-! ## Host programs and the digest's bytes -/

/-- 44_host_interface.md R205, on the first word of 95_test_vectors.md P1. -/
theorem test_digest_byte : ((List.range 5).map (digestByte .sha1 #v[0xA9993E36, 0x4706816A, 0, 0, 0, 0, 0, 0])) =
    [0xA9#8, 0x99#8, 0x3E#8, 0x36#8, 0x47#8] := by decide

/-- 30_encoding.md R93, R94, and the codes of 95_test_vectors.md P1, lines 2 to 7. -/
theorem test_host_program : hostTurns [.msg [0x61, 0x62, 0x63], .command (.hash .sha1)] =
    [.host ⟨0x20#6, 0, 0x61⟩, .host ⟨0x20#6, 1, 0x62⟩, .host ⟨0x20#6, 2, 0x63⟩, .host ⟨0x12#6, 0, 3⟩,
     .host ⟨0x10#6, 0, 0x11⟩] := by decide

theorem test_poll : poll none = some ⟨0x01#6, 0, 0⟩ ∧ poll (some 0x011) = some ⟨0x01#6, 0, 0⟩ ∧ poll (some 0x012) = none := by
  decide

/-! ## The digest function on the source's known answers (95_test_vectors.md section 1) and a two-block message -/

/-- A message from the big-endian number of its `l` bytes. -/
def message (x l : Nat) (j : Nat) : Byte := BitVec.ofNat 8 (x / 256 ^ (l - 1 - j))

/-- "hello world". -/
def hello : Nat → Byte := message 0x68656C6C6F20776F726C64 11

theorem test_digest_sha1 : digest .sha1 hello 11 =
    #v[0x2AAE6C35, 0xC94FCFB4, 0x15DBE95F, 0x408B9CE9, 0x1EE846ED, 0, 0, 0] := by decide +kernel
theorem test_digest_sha256 : digest .sha256 hello 11 =
    #v[0xB94D27B9, 0x934D3E08, 0xA52E52D7, 0xDA7DABFA, 0xC484EFE3, 0x7A5380EE, 0x9088F7AC, 0xE2EFCDE9] := by decide +kernel
theorem test_digest_sha512 : digest .sha512 hello 11 =
    #v[0x309ECC489C12D6EB, 0x4CC40F50C902F2B4, 0xD0ED77EE511A7C7A, 0x9BCD3CA86D4CD86F, 0x989DD35BC5FF4996,
      0x70DA34255B45B0CF, 0xD830E81F605DCF7D, 0xC5542E93AE9CD76F] := by decide +kernel
/-- 64 bytes 0x61 under SHA-1, two blocks (95_test_vectors.md P4). -/
theorem test_digest_two_blocks : digest .sha1 (fun _ => 0x61#8) 64 =
    #v[0x0098BA82, 0x4B5C1642, 0x7BD7A112, 0x2A5A442A, 0x25EC644D, 0, 0, 0] := by decide +kernel

/-! ## Witnesses: the hypotheses of each statement are met -/

theorem next_of_after {o : Host.Outcome State Fault Refusal} (h : after o (fun _ => ()) = some ()) : ∃ t, o = .next t := by
  cases o with
  | next t => exact ⟨t, rfl⟩
  | fault r => cases h
  | refused r => cases h

/-- A run of SHA-1 on "abc" in the schedule, and finished; and a core that waits for a command. -/
def expanding : State := { abc .sha1 .exp with t := 16 }
def finished : State := { abc .sha1 .done with acc := initialAcc .sha1 }
def waiting : State := { abc .sha1 .idle with turns := [.host ⟨0x10#6, 0, 0x11#64⟩] }

/-- A core on another platform that finished SHA-256 and holds other bytes past the message "abc". -/
def used : State :=
  { abc .sha256 .done with
    cfg := ⟨8, 16⟩, chip := 1, err := 2, v := Vector.replicate 8 9
    msg := [(0, 0x61), (1, 0x62), (2, 0x63), (5, 0x11)], turns := [.host ⟨0x10#6, 0, 0x11#64⟩] }

theorem expanding_inv : Inv expanding := by
  constructor <;> decide
theorem finished_inv : Inv finished := by
  constructor <;> decide
theorem waiting_inv : Inv waiting := by
  constructor <;> decide
theorem used_inv : Inv used := by
  constructor <;> decide

theorem witness_EncodedInstructionDecodesToItself :
    (Instr.rdRsvd 3).wf = true ∧ (Instr.rdRsvd 7).wf = true ∧ (Instr.wrRo 1 5).wf = true ∧
    (Instr.wrRo 15 5).wf = true ∧ (Instr.wrb 0xFFFFFFFFFFFFFFFF 0xFF).wf = true := by decide

theorem witness_MicroOperationCodesAreExact :
    (1 ≤ (0x05#6).toNat / 4 ∧ (0x05#6).toNat % 4 ≠ 0) ∧ ((0x27#6).toNat / 4 ≤ 9 ∧ (0x27#6).toNat % 4 ≠ 0) ∧
    (1 ≤ (0x04#6).toNat / 4 ∧ (0x24#6).toNat / 4 ≤ 9 ∧ (0x24#6).toNat % 4 = 0) ∧
    (0xB ≤ (0x2C#6).toNat / 4 ∧ (0x3B#6).toNat / 4 ≤ 0xE) := by decide

theorem witness_TransactionDescriptorsAreExact :
    (∀ c ∈ [0x00#6, 0x05#6, 0x20#6, 0x30#6], ¬((0x21 ≤ c.toNat ∧ c.toNat ≤ 0x2F) ∨ 0x31 ≤ c.toNat)) ∧
    ∀ c ∈ [0x21#6, 0x2F#6, 0x31#6, 0x3F#6], (0x21 ≤ c.toNat ∧ c.toNat ≤ 0x2F) ∨ 0x31 ≤ c.toNat := by decide

theorem witness_IllegalCommandWordIsRejected :
    (0x14#64 ≠ 0x00#64 ∧ 0x14#64 ≠ 0x11#64 ∧ 0x14#64 ≠ 0x12#64 ∧ 0x14#64 ≠ 0x13#64) ∧
    (abc .sha256 .exp).phase ≠ .fault ∧ (abc .sha256 .fault).phase = .fault := by decide

theorem witness_StepRunsHostTransaction :
    (waiting.turns = .host ⟨0x10#6, 0, 0x11#64⟩ :: [] ∧ decodeTxn ⟨0x10#6, 0, 0x11#64⟩ = .instr (.wrCmd 0x11#64)) ∧
    (decodeTxn ⟨0x3F#6, 0, 0⟩ = .reject .noTransaction) := by decide

theorem witness_StepRunsMicroOperation :
    decodeMicro ((abc .sha512 .fin).phase.code ++ (abc .sha512 .fin).alg) = .instr (.fin .sha512) ∧
    (abc .sha512 .fin).turns = [] := by decide

theorem witness_QuiescentSequencerChangesNothing :
    (small.phase = .idle ∧ small.turns = []) ∧ finished.phase = .done ∧ (abc .sha1 .fault).phase = .fault := by decide

theorem witness_ReservedCodeTakesTheFault :
    (0xB ≤ (abc .sha1 .reservedB).phase.code.toNat ∧ (abc .sha1 .reservedE).phase.code.toNat ≤ 0xE) ∧
    (1 ≤ Phase.pad.code.toNat ∧ Phase.fin.code.toNat ≤ 9 ∧ small.alg = 0#2) := by decide

theorem witness_FlagsAreFunctionsOfPhase :
    ¬(0xB ≤ Phase.idle.code.toNat ∧ Phase.idle.code.toNat ≤ 0xE) ∧
    ¬(0xB ≤ Phase.done.code.toNat ∧ Phase.done.code.toNat ≤ 0xE) ∧
    ¬(0xB ≤ Phase.fault.code.toNat ∧ Phase.fault.code.toNat ≤ 0xE) := by decide

theorem witness_DigestReadIsGatedByDone :
    Inv finished ∧ finished.phase = .done ∧ finished.alg = 1#2 ∧ 5 ≤ (5#3).toNat ∧ small.phase ≠ .done ∧
    (abc .sha512 .done).alg = 3#2 ∧ (abc .sha256 .done).alg = 2#2 := ⟨finished_inv, by decide⟩

theorem witness_OtherReadsReturnTheirRegister :
    (3 ≤ (3#4).toNat ∧ (3#4).toNat ≤ 7) ∧ (3 ≤ (7#4).toNat ∧ (7#4).toNat ≤ 7) := by decide

/-- Two states that differ in the memory, the schedule and the accumulator of an unfinished run. -/
theorem witness_HostCannotReadHiddenState :
    let s1 := expanding
    let s2 := { expanding with msg := [], w := Vector.replicate 80 5, acc := Vector.replicate 8 5 }
    s1.status = s2.status ∧ s1.msgLen = s2.msgLen ∧ (∀ k, s1.digestReg k = s2.digestReg k) ∧ s1.reply = s2.reply ∧
    decodeTxn ⟨0x08#6, 0, 0⟩ = .instr (.rdDigest 0) ∧ (∃ t, exec (.rdDigest 0) s1 = .next t) ∧
    (∃ t, exec (.rdDigest 0) s2 = .next t) :=
  ⟨by decide, by decide, by decide, by decide, by decide, ⟨_, rfl⟩, ⟨_, rfl⟩⟩

theorem witness_NopDoesNothing : expanding.phase.busy = true ∧ (0x11#64 ≠ 0) ∧ (0x77#64 ≠ 0) := by decide

theorem witness_ReadOnlyWriteIsDiscarded : (1#4).toNat = 1 ∧ 3 ≤ (3#4).toNat ∧ 3 ≤ (15#4).toNat := by decide

theorem witness_MsgLenWriteFollowsItsRule :
    (abc .sha1 .fault).phase = .fault ∧ (abc .sha1 .pad).phase.busy = true ∧ (abc .sha1 .fin).phase.busy = true ∧
    (finished.phase ≠ .fault ∧ finished.phase.busy = false) ∧ finished.cfg.lenw ≤ 64 := by decide

theorem witness_ByteWriteFollowsItsRule :
    (abc .sha1 .fault).phase = .fault ∧ expanding.phase.busy = true ∧
    (small.phase ≠ .fault ∧ small.phase.busy = false ∧ small.cfg.msgCap ≤ (64#64).toNat) ∧
    (63#64).toNat < small.cfg.msgCap := by decide

theorem witness_HashCommandFollowsItsRule :
    ((Instr.hashSha512, 3#2) = (Instr.hashSha512, 3#2)) ∧ (abc .sha1 .fault).phase = .fault ∧
    expanding.phase.busy = true ∧ (small.phase ≠ .fault ∧ small.phase.busy = false) ∧
    small.cfg.msgCap < ({ small with msgLen := 65 } : State).msgLen.toNat ∧
    ({ small with msgLen := 64 } : State).msgLen.toNat ≤ small.cfg.msgCap ∧
    (0x14#64 ≠ 0x00#64 ∧ 0x14#64 ≠ 0x11#64 ∧ 0x14#64 ≠ 0x12#64 ∧ 0x14#64 ≠ 0x13#64) := by decide

theorem witness_CommandWriteDispatches :
    (abc .sha1 .fault).phase = .fault ∧ expanding.phase ≠ .fault ∧
    (0x10#64 ≠ 0x00#64 ∧ 0x10#64 ≠ 0x11#64 ∧ 0x10#64 ≠ 0x12#64 ∧ 0x10#64 ≠ 0x13#64) := by decide

theorem witness_FaultIsLatchedUntilReset :
    let s := { abc .sha1 .fault with turns := [.host ⟨0x10#6, 0, 0x77#64⟩] }
    s.phase = .fault ∧ ∃ t, step s = .next t := ⟨rfl, next_of_after (by decide)⟩

/-- A state after power-on whose registers without a reset value hold other values than the model's. -/
theorem witness_PowerOnStateIsAsSpecified :
    AtPowerOn { small with bi := 5, t := 99, w := Vector.replicate 80 7, acc := Vector.replicate 8 3 } := by
  constructor <;> decide

theorem witness_PadFollowsItsRuleAt64 : Instr.padSha1 = .padSha1 ∧ Instr.padSha256 = .padSha256 := by decide

theorem witness_PaddingLengthIsMinimal :
    (56 + 1 + 63 + Alg.sha1.lfb) % Alg.sha1.bs = 0 ∧ (55 + 1 + 0 + Alg.sha256.lfb) % Alg.sha256.bs = 0 ∧
    (112 + 1 + 127 + Alg.sha512.lfb) % Alg.sha512.bs = 0 := by decide

theorem witness_PaddingEdgeCases : 1 ≤ 1 ∧ 1 < 2 ^ 1 ∧ 2 ^ 64 - 1 < 2 ^ 64 := by decide

/-- The four clauses at their bounds, for "abc" under SHA-1: indices 2; 3; 4 and 55; 56 and 63. -/
theorem witness_PaddedMessageContract :
    let s := expanding
    s.padp.toNat = padLen .sha1 s.msgLen.toNat ∧ s.nblk = blockCount .sha1 s.msgLen.toNat ∧ 63 < s.nblk * Alg.sha1.bs ∧
    2 < s.msgLen.toNat ∧ 3 = s.msgLen.toNat ∧ (s.msgLen.toNat < 4 ∧ 55 < s.msgLen.toNat + 1 + s.padp.toNat) ∧
    s.msgLen.toNat + 1 + s.padp.toNat ≤ 56 ∧ 8 * s.msgLen.toNat < 2 ^ (8 * Alg.sha1.lfb) := by decide

theorem witness_TrailerDecodesToBitLength :
    8 * (2 ^ 61 - 1) < 2 ^ (8 * Alg.sha1.lfb) ∧ 8 * 2 ^ 64 < 2 ^ (8 * Alg.sha512.lfb) := by decide

theorem witness_BlockLoadAt32 :
    (abc .sha256 .ldblk).msgLen.toNat ≤ (abc .sha256 .ldblk).cfg.msgCap ∧
    ({ small with msgLen := 64 } : State).msgLen.toNat ≤ small.cfg.msgCap := by decide

theorem witness_BlockLoadAt64 : (abc .sha512 .ldblk).msgLen.toNat ≤ (abc .sha512 .ldblk).cfg.msgCap := by decide

/-- A forced state in which the load stops, at the first byte past the memory, and one in which it does not. -/
theorem witness_BlockLoadStopsOnlyOutsideTheMemory :
    exec .ldblkSha1 { small with msgLen := 65, nblk := 2, bi := 1 } = .fault (.msgOutside 64) ∧
    ∃ t, exec .ldblkSha1 { small with msgLen := 64, nblk := 2, bi := 1 } = .next t := ⟨rfl, ⟨_, rfl⟩⟩

theorem witness_ExpandSha1FollowsItsRule :
    (16 ≤ (16#7).toNat ∧ (79#7).toNat ≤ 79) ∧ ¬(16 ≤ (15#7).toNat ∧ (15#7).toNat ≤ 79) ∧
    ¬(16 ≤ (80#7).toNat ∧ (80#7).toNat ≤ 79) := by decide

theorem witness_ExpandSha256FollowsItsRule :
    (16 ≤ (16#7).toNat ∧ (63#7).toNat ≤ 63) ∧ ¬(16 ≤ (15#7).toNat ∧ (15#7).toNat ≤ 63) ∧
    ¬(16 ≤ (64#7).toNat ∧ (64#7).toNat ≤ 63) := by decide

theorem witness_ExpandSha512FollowsItsRule :
    (16 ≤ (16#7).toNat ∧ (79#7).toNat ≤ 79) ∧ ¬(16 ≤ (80#7).toNat ∧ (80#7).toNat ≤ 79) := by decide

theorem witness_BooleanFunctionsBitByBit :
    (19 ≤ 79 ∧ 19 ≤ 19) ∧ (20 ≤ 20 ∧ 39 ≤ 39) ∧ (40 ≤ 40 ∧ 59 ≤ 59) ∧ 60 ≤ 60 := by decide

theorem witness_RotationsLoseNoBit : (0 < 1 ∧ 1 < 32) ∧ (0 < 31 ∧ 31 < 32) ∧ (0 < 1 ∧ 1 < 2) := by decide

/-- Registers and index at the bounds of the range and past it. -/
theorem witness_RoundSha1FollowsItsRule : (∃ a : BitVec 32, a = (initialAcc .sha1)[0].setWidth 32) ∧
    (79#7).toNat ≤ 79 ∧ 79 < (80#7).toNat := ⟨⟨_, rfl⟩, by decide⟩

theorem witness_RoundSha256FollowsItsRule : (∃ a : BitVec 32, a = (initialAcc .sha256)[0].setWidth 32) ∧
    statedK256.getD (63#7).toNat 0 = 0xC67178F2#32 ∧ (63#7).toNat ≤ 63 ∧ 63 < (64#7).toNat := ⟨⟨_, rfl⟩, by decide⟩

theorem witness_RoundSha512FollowsItsRule :
    (#v[1, 2, 3, 4, 5, 6, 7, 8] : Vector Word 8) = ({ small with v := #v[1, 2, 3, 4, 5, 6, 7, 8] } : State).v ∧
    statedK512.getD (79#7).toNat 0 = 0x6C44198C4A475817#64 ∧ (79#7).toNat ≤ 79 ∧ 79 < (80#7).toNat := by decide

theorem witness_NextFollowsItsRule :
    (expanding.bi + 1 = expanding.nblk) ∧ ({ expanding with nblk := 2 } : State).bi + 1 ≠ 2 := by decide

theorem witness_InvariantHoldsAtPowerOn :
    let s := { State.powerOn ⟨1, 2⟩ 3 with bi := 1, nblk := 1, padp := 100 }
    s.cfg.wf = true ∧ AtPowerOn s := ⟨by decide, by constructor <;> decide⟩

theorem witness_StepKeepsTheInvariant : Inv expanding ∧ ∃ t, step expanding = .next t :=
  ⟨expanding_inv, next_of_after (by decide)⟩

theorem witness_StepKeepsMemoryCanonical :
    let s := { small with msg := [(1, 5), (4, 6)], turns := [.host ⟨0x20#6, 2, 7⟩] }
    Memory.wf s.msg ∧ ∃ t, step s = .next t := ⟨by decide, next_of_after (by decide)⟩

/-- A host's turn; a sequencer's turn in IDLE; no turn listed in EXP and in DONE. -/
theorem witness_StepAlwaysCompletes :
    (Inv waiting ∧ ∀ u ∈ waiting.turns.head?, Turn.issuable u = true) ∧
    (let s := { waiting with turns := [.seq] }
     Inv s ∧ ∀ u ∈ s.turns.head?, Turn.issuable u = true) ∧
    (Inv expanding ∧ ∀ u ∈ expanding.turns.head?, Turn.issuable u = true) ∧
    (Inv finished ∧ ∀ u ∈ finished.turns.head?, Turn.issuable u = true) :=
  ⟨⟨waiting_inv, by decide⟩, ⟨by constructor <;> decide, by decide⟩, ⟨expanding_inv, by decide⟩, ⟨finished_inv, by decide⟩⟩

theorem witness_NoRunFromPowerOnFaults :
    let s := { small with nblk := 9, turns := [.seq, .host ⟨0x10#6, 0, 0x12#64⟩, .seq, .host ⟨0x30#6, 0, 0⟩] }
    s.cfg.wf = true ∧ AtPowerOn s ∧ ∀ u ∈ s.turns, Turn.issuable u = true :=
  ⟨by decide, by constructor <;> decide, by decide⟩

/-- The hypotheses in every phase that is not reserved, at the bounds of both indices and past them, and at a host's
turn. -/
theorem witness_PhaseTransitionsAreTheTable :
    (∀ s ∈ [abc .sha1 .pad, abc .sha1 .init, abc .sha1 .ldblk, { abc .sha1 .exp with t := 15 }, expanding,
        { expanding with t := 78 }, { expanding with t := 79 }, { expanding with t := 80 }, abc .sha1 .ldv,
        abc .sha256 .rnd, { abc .sha256 .rnd with t := 62 }, { abc .sha256 .rnd with t := 63 },
        { abc .sha256 .rnd with t := 64 }, abc .sha1 .accum, abc .sha1 .next, { abc .sha1 .next with nblk := 2 },
        abc .sha1 .fin, finished, small, abc .sha1 .fault, waiting, { waiting with turns := [.host ⟨0x30#6, 0, 0⟩] }],
      (s.phase.legal = true ∨ s.phase = .fault) ∧ (s.phase.busy = true → s.alg ≠ 0#2) ∧
      after (step s) (fun _ => ()) = some ()) := by decide +kernel

theorem witness_RunningMessageIsImmutable :
    let s := { expanding with turns := [.host ⟨0x20#6, 0, 0xFF⟩] }
    s.phase.busy = true ∧ ∃ t, step s = .next t := ⟨by decide, next_of_after (by decide)⟩

/-- A micro-operation, an acceptance, a rejected write and the fault. -/
theorem witness_EachRegisterHasItsWriters : (∃ t, step expanding = .next t) ∧ (∃ t, step waiting = .next t) ∧
    (∃ t, step { expanding with turns := [.host ⟨0x12#6, 0, 5⟩] } = .next t) ∧
    ∃ t, step { expanding with t := 80 } = .next t :=
  ⟨next_of_after (by decide), next_of_after (by decide), next_of_after (by decide), next_of_after (by decide)⟩

theorem witness_HostDoesNotDisturbTheRun :
    let s := { expanding with turns := [.host ⟨0x20#6, 0, 0xFF⟩] }
    s.phase.busy = true ∧ s.turns = .host ⟨0x20#6, 0, 0xFF⟩ :: [] ∧ decodeTxn ⟨0x20#6, 0, 0xFF⟩ ≠ .instr .reset ∧
    ∃ t, step s = .next t := ⟨by decide, rfl, by decide, next_of_after (by decide)⟩

/-- A message that fills the memory. -/
theorem witness_MessageLineStoresTheMessage :
    let s := { State.powerOn ⟨2, 3⟩ 0 with turns := hostTurns [.msg [1, 2, 3]] }
    s.phase = .idle ∧ s.cfg.lenw ≤ 64 ∧ [(1 : Byte), 2, 3].length ≤ s.cfg.msgCap ∧
    [(1 : Byte), 2, 3].length < 2 ^ s.cfg.lenw ∧ s.turns = hostTurns [.msg [1, 2, 3]] := by decide

theorem witness_AcceptedCommandStartsTheRun :
    (waiting.phase = .idle ∧ waiting.msgLen.toNat ≤ waiting.cfg.msgCap) ∧
    (({ small with phase := .done, msgLen := 64 } : State).msgLen.toNat ≤ small.cfg.msgCap) := by decide

/-- A run just begun, and one at its first block. -/
theorem witness_StepFollowsTheDigestFunction :
    (Follows .sha1 (abc .sha1 .pad).msgByte 3 (abc .sha1 .pad) ∧ ∃ t, step (abc .sha1 .pad) = .next t) ∧
    (let s := { abc .sha1 .ldblk with acc := initialAcc .sha1 }
     Follows .sha1 s.msgByte 3 s ∧ ∃ t, step s = .next t) := by
  refine ⟨⟨?_, next_of_after (by decide)⟩, ⟨?_, next_of_after (by decide)⟩⟩
  · constructor
    case message => exact fun _ => ⟨rfl, by decide, fun _ _ => rfl⟩
    case acc => intro h; simp [abc] at h
    case expanded => intro h; simp [abc] at h
    case finished => intro h; simp [abc] at h
    case expanding => intro h; cases h
    case round => intro h; cases h
    case rounded => intro h; cases h
    case folded => intro h; cases h
    all_goals decide
  · constructor
    case message => exact fun _ => ⟨rfl, by decide, fun _ _ => rfl⟩
    case acc => exact fun _ => rfl
    case expanded => intro h; simp [abc] at h
    case finished => intro h; simp [abc] at h
    case expanding => intro h; cases h
    case round => intro h; cases h
    case rounded => intro h; cases h
    case folded => intro h; cases h
    all_goals decide

theorem witness_EveryTurnBringsTheRunNearer :
    Inv expanding ∧ expanding.phase.busy = true ∧ expanding.algorithm = some .sha1 ∧
    (∃ t, step expanding = .next t) ∧ expanding.turns = [] :=
  ⟨expanding_inv, by decide, by decide, next_of_after (by decide), rfl⟩

theorem witness_HashRunComputesTheDigest :
    Inv waiting ∧ waiting.phase = .idle ∧ waiting.msgLen.toNat ≤ waiting.cfg.msgCap ∧
    waiting.turns = [.host ⟨0x10#6, 0, BitVec.ofNat 64 (0x10 + Alg.sha1.code.toNat)⟩] :=
  ⟨waiting_inv, by decide⟩

theorem witness_DigestOwesNothingToEarlierRuns :
    Inv waiting ∧ Inv used ∧ waiting.phase = .idle ∧ used.phase = .done ∧ waiting.msgLen = used.msgLen ∧
    waiting.msgLen.toNat ≤ waiting.cfg.msgCap ∧ used.msgLen.toNat ≤ used.cfg.msgCap ∧
    (∀ j, j < waiting.msgLen.toNat → waiting.msgByte j = used.msgByte j) ∧
    waiting.turns = [.host ⟨0x10#6, 0, BitVec.ofNat 64 (0x10 + Alg.sha1.code.toNat)⟩] ∧ used.turns = waiting.turns :=
  ⟨waiting_inv, used_inv, by decide⟩

end Sys2Proof.Tests
end

section
/-! Rotations (O37). Everything follows from one lemma: bit `k` of a right rotation is bit `(k + n) mod w`. -/

namespace Sys2Proof.Machine

/-- Bit `k` of a right rotation (00_scope.md R11, 42_compress.md R161). -/
theorem getLsbD_rotr {w n k : Nat} (x : BitVec w) (hn : n < w) (hk : k < w) :
    (rotr x n).getLsbD k = x.getLsbD ((k + n) % w) := by
  rw [rotr_eq_rotateRight x hn, BitVec.getLsbD_rotateRight, Nat.mod_eq_of_lt hn]
  by_cases h : k < w - n
  · have hin : (k + n) % w = n + k := by rw [Nat.mod_eq_of_lt (by omega), Nat.add_comm]
    simp [h, hin]
  · have hwrap : (k + n) % w = k - (w - n) := by
      rw [Nat.mod_eq_sub_mod (by omega), Nat.mod_eq_of_lt (by omega)]
      omega
    simp [h, hk, hwrap]

/-- A word whose bits are all `b` is its own rotation. -/
theorem rotr_eq_self_of_bits {w n : Nat} {x : BitVec w} {b : Bool} (hn : n < w)
    (hx : ∀ k, k < w → x.getLsbD k = b) : rotr x n = x := by
  refine BitVec.eq_of_getLsbD_eq fun k hk => ?_
  rw [getLsbD_rotr x hn hk, hx k hk, hx _ (Nat.mod_lt _ (by omega))]

/-- A rotation left undoes the rotation right by the same amount: bit `k` goes to `k - n` and back. -/
theorem rotl_rotr {w n : Nat} (x : BitVec w) (h0 : 0 < n) (hn : n < w) : rotl (rotr x n) n = x := by
  refine BitVec.eq_of_getLsbD_eq fun k hk => ?_
  have hback : ((k + (w - n)) % w + n) % w = k := by
    rw [Nat.mod_add_mod, show k + (w - n) + n = k + w by omega, Nat.add_mod_right, Nat.mod_eq_of_lt hk]
  rw [rotl, getLsbD_rotr _ (by omega) hk, getLsbD_rotr x hn (Nat.mod_lt _ (by omega)), hback]

end Sys2Proof.Machine

namespace Sys2Proof

open Machine

/-- Settles O37: each part is read off the bit lemma `getLsbD_rotr`. -/
theorem rotationsLoseNoBit : Obligations.RotationsLoseNoBit := fun w n x h0 hn =>
  ⟨rotr_eq_self_of_bits (b := false) hn fun _ _ => BitVec.getLsbD_zero,
   rotr_eq_self_of_bits (b := true) hn fun _ hk => by simp [hk],
   rfl, fun _ hk => getLsbD_rotr x hn hk, rotl_rotr x h0 hn⟩

end Sys2Proof
end

section
/-! Who writes what (O53): for a host's turn the writes are tied to the transaction that makes them (`HostWrites`), for
the sequencer's turn to the phase (`SequencerFrame`). -/

namespace Sys2Proof.Machine

/-! ## The host's turn -/

/-- The writes that can be rejected; `WR.RO` is discarded instead (44_host_interface.md R192 to R195). -/
def IsRejectable (i : Instr) : Prop := (∃ d, i = .wrCmd d) ∨ (∃ d, i = .wrMsgLen d) ∨ ∃ a b, i = .wrb a b

/-- The word of a `HASH` written to `CMD`, which leaves the core at the start of a run with `ERR` cleared
(44_host_interface.md R197). -/
def StartsRun (i : Instr) (t : State) : Prop :=
  (i = .wrCmd 0x11#64 ∨ i = .wrCmd 0x12#64 ∨ i = .wrCmd 0x13#64) ∧ t.phase = .pad ∧ t.err = 0#4

theorem accept_startsRun (a : Alg) (s : State) :
    StartsRun (.wrCmd (BitVec.ofNat 64 (0x10 + a.code.toNat))) (s.accept a) :=
  ⟨by cases a <;> decide, rfl, rfl⟩

/-- What a host's transaction, named, does to the core: `HostEffect` with each write tied to the transaction that
makes it. -/
inductive HostWrites (s : State) : Instr → State → Prop where
  | discarded (i : Instr) : HostWrites s i s
  | read (i : Instr) (r : Word) : HostWrites s i (s.respond r)
  | rejected {i : Instr} {c : BitVec 4} (hi : IsRejectable i)
      (hc : c = causeCmdIllegal ∨ c = causeBusyWrite ∨ c = causeLenRange) : HostWrites s i (s.reject c)
  | hash (a : Alg) : HostWrites s (.wrCmd (BitVec.ofNat 64 (0x10 + a.code.toNat))) (s.accept a)
  | msgLen (d : Word) : HostWrites s (.wrMsgLen d) (s.setMsgLen d)
  | byte (a : Word) (b : Byte) : HostWrites s (.wrb a b) (s.storeByte a.toNat b)
  | reset : HostWrites s .reset s.resetCore

theorem wrCmd_writes {d : Word} {s t : State} (h : exec (.wrCmd d) s = .next t) : HostWrites s (.wrCmd d) t := by
  rcases wrCmd_cases d s with ⟨-, e⟩ | ⟨-, -, e⟩ | ⟨-, a, rfl, e⟩ | ⟨-, -, e⟩ <;> rw [e] at h <;> cases h
  · exact .discarded _
  · exact .discarded _
  · rcases hashOp_cases a s with ⟨-, e⟩ | ⟨-, -, e⟩ | ⟨-, -, -, e⟩ | ⟨-, -, -, e⟩ <;> rw [e]
    · exact .discarded _
    · exact .rejected (.inl ⟨_, rfl⟩) (.inr (.inl rfl))
    · exact .rejected (.inl ⟨_, rfl⟩) (.inr (.inr rfl))
    · exact .hash a
  · exact .rejected (.inl ⟨_, rfl⟩) (.inl rfl)

theorem wrMsgLen_writes {d : Word} {s t : State} (h : exec (.wrMsgLen d) s = .next t) :
    HostWrites s (.wrMsgLen d) t := by
  rcases wrMsgLen_cases d s with ⟨-, e⟩ | ⟨-, -, e⟩ | ⟨-, -, e⟩ <;> rw [e] at h <;> cases h
  · exact .discarded _
  · exact .rejected (.inr (.inl ⟨d, rfl⟩)) (.inr (.inl rfl))
  · exact .msgLen d

theorem wrb_writes {a : Word} {b : Byte} {s t : State} (h : exec (.wrb a b) s = .next t) :
    HostWrites s (.wrb a b) t := by
  rcases wrb_cases a b s with ⟨-, e⟩ | ⟨-, -, e⟩ | ⟨-, -, -, e⟩ | ⟨-, -, -, e⟩ <;> rw [e] at h <;> cases h
  · exact .discarded _
  · exact .rejected (.inr (.inr ⟨a, b, rfl⟩)) (.inr (.inl rfl))
  · exact .rejected (.inr (.inr ⟨a, b, rfl⟩)) (.inr (.inr rfl))
  · exact .byte a b

/-- Everything a host's transaction writes. -/
theorem host_writes {x : HostTxn} {i : Instr} {s t : State} (hd : decodeTxn x = .instr i) (h : exec i s = .next t) :
    HostWrites s i t := by
  rcases decodeTxn_cases hd with rfl | rfl | rfl | ⟨r, rfl⟩ | ⟨k, rfl⟩ | ⟨d, rfl⟩ | ⟨d, rfl⟩ | ⟨r, d, rfl⟩ | ⟨a, b, rfl⟩ | rfl
  case inr.inr.inr.inr.inr.inl => exact wrCmd_writes h
  case inr.inr.inr.inr.inr.inr.inl => exact wrMsgLen_writes h
  case inr.inr.inr.inr.inr.inr.inr.inr.inl => exact wrb_writes h
  case inr.inr.inr.inr.inr.inr.inr.inl => cases h; exact .discarded _
  case inr.inr.inr.inr.inr.inr.inr.inr.inr => cases h; exact .reset
  all_goals cases h; exact .read _ _

section
variable {i : Instr} {s t : State}

theorem HostWrites.keeps_configuration (h : HostWrites s i t) : t.cfg = s.cfg ∧ t.chip = s.chip := by
  cases h <;> exact ⟨rfl, rfl⟩

/-- But for `RESET`, no transaction reaches the datapath or the block loop. -/
theorem HostWrites.keeps_datapath (h : HostWrites s i t) (hr : i ≠ .reset) :
    t.v = s.v ∧ t.w = s.w ∧ t.acc = s.acc ∧ t.bi = s.bi ∧ t.t = s.t ∧ t.padp = s.padp ∧ t.nblk = s.nblk := by
  cases h
  case reset => exact absurd rfl hr
  all_goals exact ⟨rfl, rfl, rfl, rfl, rfl, rfl, rfl⟩

theorem HostWrites.alg (h : HostWrites s i t) (hr : i ≠ .reset) : t.alg = s.alg ∨ StartsRun i t := by
  cases h
  case reset => exact absurd rfl hr
  case hash a => exact .inr (accept_startsRun a s)
  all_goals exact .inl rfl

theorem HostWrites.err (h : HostWrites s i t) (hr : i ≠ .reset) :
    t.err = s.err ∨ StartsRun i t ∨
    (IsRejectable i ∧ (t.err = 2#4 ∨ t.err = 3#4 ∨ t.err = 4#4) ∧ t = { s with err := t.err }) := by
  cases h
  case reset => exact absurd rfl hr
  case hash a => exact .inr (.inl (accept_startsRun a s))
  case rejected hc hi => exact .inr (.inr ⟨hi, hc, rfl⟩)
  all_goals exact .inl rfl

theorem HostWrites.msg (h : HostWrites s i t) : t.msg = s.msg ∨ ∃ a b, i = .wrb a b := by
  cases h
  case byte a b => exact .inr ⟨a, b, rfl⟩
  all_goals exact .inl rfl

theorem HostWrites.length (h : HostWrites s i t) (hr : i ≠ .reset) :
    t.msgLen = s.msgLen ∨ ∃ d, i = .wrMsgLen d := by
  cases h
  case reset => exact absurd rfl hr
  case msgLen d => exact .inr ⟨d, rfl⟩
  all_goals exact .inl rfl

end

/-! ## The sequencer's turn -/

/-- What a turn of the sequencer from `s` to `t` leaves as it was, but for the phases that write it. What no phase
writes is `microResult_keeps`. -/
structure SequencerFrame (s t : State) : Prop where
  v : t.v = s.v ∨ s.phase = .ldv ∨ s.phase = .rnd
  w : t.w = s.w ∨ s.phase = .ldblk ∨ s.phase = .exp
  acc : t.acc = s.acc ∨ s.phase = .init ∨ s.phase = .accum
  bi : t.bi = s.bi ∨ s.phase = .init ∨ s.phase = .next
  index : t.t = s.t ∨ s.phase = .ldblk ∨ s.phase = .exp ∨ s.phase = .ldv ∨ s.phase = .rnd
  padding : (t.padp = s.padp ∧ t.nblk = s.nblk) ∨ s.phase = .pad
  err : t.err = s.err ∨ (t.phase = .fault ∧ t.err = 1#4)

theorem SequencerFrame.refl (s : State) : SequencerFrame s s := by constructor <;> exact .inl (by simp)

theorem raiseFault_frame (s : State) : SequencerFrame s s.raiseFault := by
  constructor
  case err => exact .inr ⟨rfl, rfl⟩
  all_goals exact .inl (by simp)

theorem expOp_frame (a : Alg) {s : State} (hp : s.phase = .exp) : SequencerFrame s (expOp a s) := by
  rcases expOp_cases a s with ⟨-, e⟩ | ⟨-, -, e⟩ | ⟨-, -, e⟩ <;> rw [e]
  · exact raiseFault_frame s
  · constructor <;> simp [hp]
  · constructor <;> simp [hp]

theorem rndOp_frame (a : Alg) {s : State} (hp : s.phase = .rnd) : SequencerFrame s (rndOp a s) := by
  rcases rndOp_cases a s with ⟨-, e⟩ | ⟨-, e⟩ | ⟨-, e⟩ <;> rw [e]
  · exact raiseFault_frame s
  · constructor <;> simp [hp]
  · constructor <;> simp [hp]

theorem nextOp_frame {s : State} (hp : s.phase = .next) : SequencerFrame s (nextOp s) := by
  rcases nextOp_cases s with ⟨-, e⟩ | ⟨-, e⟩ <;> rw [e] <;> constructor <;> simp [hp]

theorem ldblkOp_frame {a : Alg} {s t : State} (hp : s.phase = .ldblk) (h : ldblkOp a s = .next t) :
    SequencerFrame s t := by
  rcases ldblkOp_cases a s with ⟨_, -, e⟩ | ⟨-, e⟩ <;> rw [e] at h <;> cases h
  constructor <;> simp [hp]

/-- Each phase's micro-operation writes the registers of its row and no others. -/
theorem microResult_frame {a : Alg} {s t : State} (h : microResult a s = .next t) : SequencerFrame s t := by
  simp only [microResult] at h
  cases hp : s.phase <;> simp only [hp] at h
  case ldblk => exact ldblkOp_frame hp h
  all_goals cases h
  case exp => exact expOp_frame a hp
  case rnd => exact rndOp_frame a hp
  case next => exact nextOp_frame hp
  case pad => constructor <;> simp [padOp, hp]
  case init => constructor <;> simp [initOp, hp]
  case ldv => constructor <;> simp [ldvOp, hp]
  case accum => constructor <;> simp [accumOp, hp]
  case fin => constructor <;> simp
  all_goals exact .refl s

/-- Taking the turn off the list touches no register, so the frame may start before it. -/
theorem SequencerFrame.of_popTurn {s t : State} (h : SequencerFrame s.popTurn t) : SequencerFrame s t :=
  ⟨h.v, h.w, h.acc, h.bi, h.index, h.padding, h.err⟩

section
variable {s t : State} (h : step s = .next t) (hseq : ∀ x rest, s.turns ≠ .host x :: rest)
include h hseq

theorem sequencerStep_frame : SequencerFrame s t := by
  rcases step_cases h with ⟨x, rest, _, ht, -⟩ | ⟨-, ⟨a, -, -, hm⟩ | ⟨-, rfl⟩ | ⟨-, rfl⟩⟩
  · exact absurd ht (hseq x rest)
  · exact (microResult_frame hm).of_popTurn
  · exact (SequencerFrame.refl _).of_popTurn
  · exact (raiseFault_frame _).of_popTurn

theorem sequencerStep_keeps :
    t.cfg = s.cfg ∧ t.chip = s.chip ∧ t.msg = s.msg ∧ t.msgLen = s.msgLen ∧ t.alg = s.alg := by
  rcases step_cases h with ⟨x, rest, _, ht, -⟩ | ⟨-, ⟨a, -, -, hm⟩ | ⟨-, rfl⟩ | ⟨-, rfl⟩⟩
  · exact absurd ht (hseq x rest)
  · obtain ⟨hmsg, hlen, halg, -, hcfg, hchip⟩ := microResult_keeps hm
    exact ⟨hcfg, hchip, hmsg, hlen, halg⟩
  · exact ⟨rfl, rfl, rfl, rfl, rfl⟩
  · exact ⟨rfl, rfl, rfl, rfl, rfl⟩

end

end Sys2Proof.Machine

namespace Sys2Proof

open Machine

/-- Settles O53, a host's turn by `host_writes` and the sequencer's by `sequencerStep_frame`. -/
theorem eachRegisterHasItsWriters : Obligations.EachRegisterHasItsWriters := by
  intro s t h
  rcases step_cases h with ⟨x, rest, i, ht, hd, hx⟩ | ⟨hseq, -⟩
  · have hpop : s.popTurn = { s with turns := rest } := by simp [State.popTurn, ht]
    rw [hpop] at hx
    have hw := host_writes hd hx
    obtain ⟨hcfg, hchip⟩ := hw.keeps_configuration
    refine ⟨hcfg, hchip, .inl ⟨x, rest, i, ht, hd, or_iff_not_imp_left.2 fun hr => ?_⟩⟩
    obtain ⟨hv, hwreg, hacc, hbi, hindex, hpadp, hnblk⟩ := hw.keeps_datapath hr
    exact ⟨hv, hwreg, hacc, hbi, hindex, hpadp, hnblk, hw.alg hr, hw.err hr, hw.msg, hw.length hr⟩
  · obtain ⟨hcfg, hchip, hmsg, hlen, halg⟩ := sequencerStep_keeps h hseq
    have hf := sequencerStep_frame h hseq
    exact ⟨hcfg, hchip, .inr ⟨hseq, hmsg, hlen, halg, hf.v, hf.w, hf.acc, hf.bi, hf.index, hf.padding, hf.err⟩⟩

end Sys2Proof
end

section
/-! The control invariant (O46, O47): a host's turn keeps it effect by effect (`HostEffect`), the sequencer's turn by
`Inv.moveTo`, which covers every micro-operation after `PAD`. -/

namespace Sys2Proof

theorem Phase.padded_of_inBlock {p : Phase} (h : p.inBlock = true) : p.padded = true := by cases p <;> trivial

theorem Phase.busy_of_padded {p : Phase} (h : p.padded = true) : p.busy = true := by cases p <;> trivial

theorem Phase.busy_of_inBlock {p : Phase} (h : p.inBlock = true) : p.busy = true :=
  busy_of_padded (padded_of_inBlock h)

theorem Phase.legal_of_inBlock {p : Phase} (h : p.inBlock = true) : p.legal = true := by cases p <;> trivial

theorem Phase.ne_idle_of_busy {p : Phase} (h : p.busy = true) : p ≠ .idle := by rintro rfl; cases h

theorem Phase.not_padded_of_not_busy {p : Phase} (h : p.busy = false) : p.padded ≠ true := fun hp => by
  simp [busy_of_padded hp] at h

theorem Alg.eq_sha1_of_code {a : Alg} (h : a.code = 1#2) : a = .sha1 := by cases a <;> simp [Alg.code] at h ⊢

namespace Machine

/-! ## Sizes -/

/-- A message has at least one block and, past one byte, no more blocks than bytes (40_padding.md R104). -/
theorem blockCount_bounds (a : Alg) (l : Nat) : 1 ≤ blockCount a l ∧ blockCount a l ≤ max 1 l := by
  cases a <;> simp only [blockCount, padLen, Alg.bs, Alg.lfb] <;> omega

/-- `NBLK` fits in the bits of `MSG_LEN`. -/
theorem blockCount_lt_two_pow {l n : Nat} (a : Alg) (hn : 1 ≤ n) (hl : l < 2 ^ n) : blockCount a l < 2 ^ n := by
  have h2 : 2 ^ 1 ≤ 2 ^ n := Nat.pow_le_pow_right (by decide) hn
  obtain ⟨-, hle⟩ := blockCount_bounds a l
  omega

theorem lengthOf_lt (c : Platform) (x : Word) : (lengthOf c x).toNat < 2 ^ c.lenw := by
  rw [lengthOf, BitVec.toNat_ofNat]
  exact Nat.lt_of_le_of_lt (Nat.mod_le _ _) (Nat.mod_lt _ (Nat.two_pow_pos _))

theorem Platform.one_le_lenw {c : Platform} (h : c.wf = true) : 1 ≤ c.lenw := by
  simp only [Platform.wf, Bool.and_eq_true, decide_eq_true_eq] at h
  exact h.1.1

theorem State.algorithm_of_alg {s : State} {a : Alg} (ha : s.alg = a.code) : s.algorithm = some a := by
  rw [State.algorithm, ha, a.ofCode_code]

theorem State.eq_of_algorithm {s : State} {a b : Alg} (ha : s.alg = a.code) (hb : s.algorithm = some b) : b = a :=
  Option.some.inj (hb.symm.trans (algorithm_of_alg ha))

/-! ## The host's turn -/

section
variable {s t : State} (h : Inv s)
include h

theorem Inv.popTurn : Inv s.popTurn := { h with }

theorem Inv.respond (x : Word) : Inv (s.respond x) := { h with }

theorem Inv.reject {c : BitVec 4} (hc : c = causeCmdIllegal ∨ c = causeBusyWrite ∨ c = causeLenRange) :
    Inv (s.reject c) := { h with err := .inr hc }

theorem Inv.setMsgLen (hb : s.phase.busy = false) (x : Word) : Inv (s.setMsgLen x) :=
  { h with
    length := lengthOf_lt s.cfg x
    fits := fun hbusy => nomatch hb.symm.trans hbusy
    padding := fun _ _ hp => absurd hp (Phase.not_padded_of_not_busy hb) }

theorem Inv.storeByte {a : Nat} (ha : a < s.cfg.msgCap) (b : Byte) : Inv (s.storeByte a b) :=
  { h with
    memory := Memory.wf_write h.memory a b
    capacity := fun c hc => by
      rcases Memory.mem_write hc with rfl | hc
      · exact ha
      · exact h.capacity c hc }

theorem Inv.accept (hl : s.msgLen.toNat ≤ s.cfg.msgCap) (a : Alg) : Inv (s.accept a) :=
  { h with
    err := .inl rfl
    legal := rfl
    accepted := fun _ => a.code_ne_zero
    fits := fun _ => hl
    padding := fun _ _ => nofun
    block := nofun
    expIndex := fun _ _ => nofun
    rndIndex := fun _ _ => nofun
    unusedAcc := fun _ => nofun }

theorem Inv.resetCore : Inv s.resetCore :=
  { h with
    length := Nat.two_pow_pos _
    biWidth := Nat.mod_lt _ (Nat.two_pow_pos _)
    nblkWidth := Nat.mod_lt _ (Nat.two_pow_pos _)
    err := .inl rfl
    legal := rfl
    accepted := fun hp => absurd rfl hp
    fits := nofun
    padding := fun _ _ => nofun
    block := nofun
    expIndex := fun _ _ => nofun
    rndIndex := fun _ _ => nofun
    unusedAcc := fun _ => nofun }

theorem Inv.hostEffect {i : Instr} (he : HostEffect i s t) : Inv t := by
  rcases he with rfl | ⟨r, rfl⟩ | ⟨-, c, hc, rfl⟩ | ⟨-, hb, d, rfl⟩ | ⟨-, -, a, b, ha, rfl⟩ | ⟨-, -, hl, a, rfl⟩ |
    ⟨-, rfl⟩
  · exact h
  · exact h.respond r
  · exact h.reject hc
  · exact h.setMsgLen hb d
  · exact h.storeByte ha b
  · exact h.accept hl a
  · exact h.resetCore

/-! ## The sequencer's turn -/

theorem Inv.padOp {a : Alg} (ha : s.alg = a.code) (hp : s.phase = .pad) : Inv (padOp a s) :=
  { h with
    nblkWidth := blockCount_lt_two_pow a (Platform.one_le_lenw h.platform) h.length
    legal := rfl
    accepted := fun _ => ha ▸ a.code_ne_zero
    fits := fun _ => h.fits (by rw [hp]; rfl)
    padding := fun b hb _ => by
      obtain rfl := State.eq_of_algorithm ha hb
      exact ⟨padLen_toNat b _, rfl⟩
    block := nofun
    expIndex := fun _ _ => nofun
    rndIndex := fun _ _ => nofun
    unusedAcc := fun _ => nofun }

/-- Once the padding is done the sequencer may move to any position of the block loop whose indices are in range, or
to DONE: what a move can break is the block index, the round index and the unused accumulator words. -/
theorem Inv.moveTo (hs : s.phase.padded = true) {a : Alg} (ha : s.alg = a.code) {p : Phase} {bi : Nat} {i : BitVec 7}
    {v acc : Vector Word 8} {w : Vector Word 80} (hp : p.inBlock = true ∨ p = .done) (hbi : bi < s.nblk)
    (hexp : p = .exp → 16 ≤ i.toNat ∧ i.toNat ≤ a.rounds - 1) (hrnd : p = .rnd → i.toNat ≤ a.rounds - 1)
    (hacc : a = .sha1 → acc[5] = 0 ∧ acc[6] = 0 ∧ acc[7] = 0) :
    Inv { s with phase := p, bi := bi, t := i, v := v, acc := acc, w := w } :=
  have hb := Phase.busy_of_padded hs
  { h with
    biWidth := Nat.lt_trans hbi h.nblkWidth
    legal := hp.elim Phase.legal_of_inBlock fun e => by subst e; rfl
    accepted := fun _ => h.accepted (Phase.ne_idle_of_busy hb)
    fits := fun _ => h.fits hb
    padding := fun b hb' _ => h.padding b hb' hs
    block := fun _ => hbi
    expIndex := fun b hb' e => State.eq_of_algorithm ha hb' ▸ hexp e
    rndIndex := fun b hb' e => State.eq_of_algorithm ha hb' ▸ hrnd e
    unusedAcc := fun h1 _ => hacc (Alg.eq_sha1_of_code (ha.symm.trans h1)) }

/-- In the block loop the registers of the accumulator that `SHA1` does not use are 0 (10_state.md R24). -/
theorem Inv.unused_of_inBlock {a : Alg} (ha : s.alg = a.code) (hs : s.phase.inBlock = true) :
    a = .sha1 → s.acc[5] = 0 ∧ s.acc[6] = 0 ∧ s.acc[7] = 0 := fun e => h.unusedAcc (by rw [ha, e]; rfl) (.inl hs)

/-- A move inside the block loop that writes no accumulator word. -/
theorem Inv.moveInBlock (hs : s.phase.inBlock = true) {a : Alg} (ha : s.alg = a.code) {p : Phase} {bi : Nat}
    {i : BitVec 7} {v : Vector Word 8} {w : Vector Word 80} (hp : p.inBlock = true ∨ p = .done) (hbi : bi < s.nblk)
    (hexp : p = .exp → 16 ≤ i.toNat ∧ i.toNat ≤ a.rounds - 1) (hrnd : p = .rnd → i.toNat ≤ a.rounds - 1) :
    Inv { s with phase := p, bi := bi, t := i, v := v, w := w } :=
  h.moveTo (Phase.padded_of_inBlock hs) ha hp hbi hexp hrnd (h.unused_of_inBlock ha hs)

theorem Inv.initOp {a : Alg} (ha : s.alg = a.code) (hp : s.phase = .init) : Inv (initOp a s) := by
  have hpad : s.phase.padded = true := by rw [hp]; rfl
  obtain ⟨-, hn⟩ := h.padding a (State.algorithm_of_alg ha) hpad
  obtain ⟨hpos, -⟩ := blockCount_bounds a s.msgLen.toNat
  refine h.moveTo hpad ha (.inl rfl) (hn ▸ hpos) nofun nofun ?_
  rintro rfl
  simp [ivWord]

theorem Inv.ldblkOp {a : Alg} (ha : s.alg = a.code) (hp : s.phase = .ldblk) (ht : ldblkOp a s = .next t) : Inv t := by
  have hin : s.phase.inBlock = true := by rw [hp]; rfl
  obtain ⟨hrounds, -⟩ := a.rounds_bounds
  rcases ldblkOp_cases a s with ⟨_, -, e⟩ | ⟨-, e⟩ <;> rw [e] at ht <;> cases ht
  exact h.moveInBlock hin ha (.inl rfl) (h.block hin) (fun _ => ⟨by decide, by simp; omega⟩) nofun

theorem Inv.expOp {a : Alg} (ha : s.alg = a.code) (hp : s.phase = .exp) : Inv (expOp a s) := by
  have hin : s.phase.inBlock = true := by rw [hp]; rfl
  obtain ⟨-, hrounds⟩ := a.rounds_bounds
  have hrange := h.expIndex a (State.algorithm_of_alg ha) hp
  rcases expOp_cases a s with ⟨hout, -⟩ | ⟨-, -, e⟩ | ⟨hlo, hlt, e⟩
  · exact absurd hrange hout
  · rw [e]; exact h.moveInBlock hin ha (.inl rfl) (h.block hin) nofun nofun
  · rw [e]
    have hsucc := index_succ hlt (by omega)
    exact h.moveInBlock hin ha (.inl rfl) (h.block hin) (fun _ => by omega) nofun

theorem Inv.rndOp {a : Alg} (ha : s.alg = a.code) (hp : s.phase = .rnd) : Inv (rndOp a s) := by
  have hin : s.phase.inBlock = true := by rw [hp]; rfl
  obtain ⟨-, hrounds⟩ := a.rounds_bounds
  have hrange := h.rndIndex a (State.algorithm_of_alg ha) hp
  rcases rndOp_cases a s with ⟨hout, -⟩ | ⟨-, e⟩ | ⟨hlt, e⟩
  · omega
  · rw [e]; exact h.moveInBlock hin ha (.inl rfl) (h.block hin) nofun nofun
  · rw [e]
    have hsucc := index_succ hlt (by omega)
    exact h.moveInBlock hin ha (.inl rfl) (h.block hin) nofun (fun _ => by omega)

theorem Inv.accumOp {a : Alg} (ha : s.alg = a.code) (hp : s.phase = .accum) : Inv (accumOp a s) := by
  have hin : s.phase.inBlock = true := by rw [hp]; rfl
  refine h.moveTo (Phase.padded_of_inBlock hin) ha (.inl rfl) (h.block hin) nofun nofun ?_
  rintro rfl
  simpa [Alg.words] using h.unused_of_inBlock ha hin rfl

theorem Inv.nextOp {a : Alg} (ha : s.alg = a.code) (hp : s.phase = .next) : Inv (nextOp s) := by
  have hin : s.phase.inBlock = true := by rw [hp]; rfl
  have hbi := h.block hin
  rcases nextOp_cases s with ⟨-, e⟩ | ⟨hne, e⟩ <;> rw [e]
  · exact h.moveInBlock hin ha (.inl rfl) hbi nofun nofun
  · exact h.moveInBlock hin ha (.inl rfl) (by omega) nofun nofun

theorem Inv.microResult {a : Alg} (ha : s.alg = a.code) (hm : microResult a s = .next t) : Inv t := by
  simp only [Machine.microResult] at hm
  cases hp : s.phase <;> simp only [hp] at hm
  case ldblk => exact h.ldblkOp ha hp hm
  all_goals cases hm
  case pad => exact h.padOp ha hp
  case init => exact h.initOp ha hp
  case exp => exact h.expOp ha hp
  case ldv =>
    have hin : s.phase.inBlock = true := by rw [hp]; rfl
    exact h.moveInBlock hin ha (.inl rfl) (h.block hin) nofun fun _ => Nat.zero_le _
  case rnd => exact h.rndOp ha hp
  case accum => exact h.accumOp ha hp
  case next => exact h.nextOp ha hp
  case fin =>
    have hin : s.phase.inBlock = true := by rw [hp]; rfl
    exact h.moveInBlock hin ha (.inr rfl) (h.block hin) nofun nofun
  all_goals exact h

/-- The sequencer never meets a reserved code. -/
theorem Inv.not_reserved : ¬((s.phase.busy = true ∧ s.alg = 0#2) ∨ s.phase = .reservedB ∨ s.phase = .reservedC ∨
    s.phase = .reservedD ∨ s.phase = .reservedE) := by
  have hlegal := h.legal
  rintro (⟨hb, h0⟩ | hp | hp | hp | hp)
  · exact h.accepted (Phase.ne_idle_of_busy hb) h0
  all_goals rw [hp] at hlegal; cases hlegal

end

/-! ## Power-on -/

theorem atPowerOn_powerOn (c : Platform) (chip : Nat) : AtPowerOn (State.powerOn c chip) :=
  ⟨rfl, rfl, rfl, rfl, rfl, Nat.two_pow_pos _, Nat.two_pow_pos _⟩

/-- The registers that a reset leaves open are bounded by their widths alone, and every other field of the invariant
speaks of IDLE with an empty memory. -/
theorem AtPowerOn.inv {s : State} (h : AtPowerOn s) (hc : s.cfg.wf = true) : Inv s := by
  obtain ⟨hphase, halg, herr, hlen, hmsg, hbi, hnblk⟩ := h
  constructor
  case platform => exact hc
  case biWidth => exact hbi
  case nblkWidth => exact hnblk
  case length => simp [hlen]
  case err => exact .inl herr
  all_goals simp [hphase, hmsg, Phase.legal, Phase.busy, Phase.padded, Phase.inBlock]

end Machine

open Machine

/-- Settles O47: the effects of a transaction keep the invariant, so do the micro-operations, and the fault at a
reserved code cannot happen. -/
theorem stepKeepsTheInvariant : Obligations.StepKeepsTheInvariant := by
  intro s t h ht
  rcases step_cases ht with ⟨_, _, i, -, hd, hx⟩ | ⟨-, ⟨a, -, ha, hm⟩ | ⟨-, rfl⟩ | ⟨hres, -⟩⟩
  · exact h.popTurn.hostEffect (host_cases hd hx)
  · exact h.popTurn.microResult ha hm
  · exact h.popTurn
  · exact absurd hres h.not_reserved

/-- Settles O46; `State.reset` is a power-on state on a platform R9 allows. -/
theorem invariantHoldsAtPowerOn : Obligations.InvariantHoldsAtPowerOn :=
  ⟨fun _ hc h => h.inv hc, (atPowerOn_powerOn Platform.standard 0).inv (by decide)⟩

end Sys2Proof
end

section
/-! What the host sees: the flags (O10), the gated digest (O12), the state after power-on (O23), and that a
transaction's reply is a function of `STATUS`, `MSG_LEN` and the gated digest (O14). -/

namespace Sys2Proof

namespace Machine

/-! ## The digest registers -/

section
variable {s : State} (i : Fin 8)

theorem State.digestReg_of_not_done (h : s.phase ≠ .done) : s.digestReg i = 0 := by
  simp [State.digestReg, Phase.isDone, h]

theorem State.digestReg_of_done (h : s.phase = .done) : s.digestReg i = s.accWord i := by
  simp [State.digestReg, Phase.isDone, h]

theorem State.accWord_of_alg {a : Alg} (h : s.alg = a.code) : s.accWord i = narrow a s.acc[i] := by
  rw [State.accWord, h, a.ofCode_code]

end

/-- A 32-bit algorithm shows bits [31:0] of a word. -/
theorem zext64_low32 (x : Word) : zext64 (low32 x) = BitVec.ofNat 64 (x.toNat % 2 ^ 32) := by
  apply BitVec.eq_of_toNat_eq
  simp only [zext64, low32, BitVec.toNat_setWidth, BitVec.toNat_ofNat]

theorem exec_rdDigest (i : BitVec 3) (s : State) :
    exec (.rdDigest i) s = .next { s with reply := some (s.digestReg i.toFin) } := rfl

theorem exec_rdStatus (s : State) : exec .rdStatus s = .next { s with reply := some s.status } := rfl

/-- The descriptors 0x08 to 0x0F name the digest registers (30_encoding.md R88). -/
theorem decodeTxn_rdDigest (i : BitVec 3) (a d : Word) :
    decodeTxn ⟨BitVec.ofNat 6 (8 + i.toNat), a, d⟩ = .instr (.rdDigest i) := by
  have hfields : ∀ i : BitVec 3, txnKind (BitVec.ofNat 6 (8 + i.toNat)) = 0#2 ∧
      decodeRead (txnReg (BitVec.ofNat 6 (8 + i.toNat))) = .rdDigest i := by decide
  obtain ⟨hkind, hreg⟩ := hfields i
  simp only [decodeTxn, hkind, hreg, if_true]

/-- In DONE under `SHA1` the registers past the fifth hold 0 (10_state.md R24). -/
theorem Inv.unused_digestReg {s : State} (h : Inv s) (hp : s.phase = .done) (ha : s.alg = 1#2) {i : BitVec 3}
    (hi : 5 ≤ i.toNat) : s.digestReg i.toFin = 0 := by
  obtain ⟨h5, h6, h7⟩ := h.unusedAcc ha (.inr hp)
  rw [State.digestReg_of_done _ hp, State.accWord_of_alg (a := .sha1) _ ha]
  have hword : s.acc[i.toFin] = 0 := by
    rcases (by decide : ∀ i : BitVec 3, 5 ≤ i.toNat → i = 5 ∨ i = 6 ∨ i = 7) i hi with rfl | rfl | rfl
    · exact h5
    · exact h6
    · exact h7
  rw [hword]
  rfl

/-! ## The reply of a transaction -/

/-- What the host holds after a transaction: the word a read returns, and after a write or `RESET` what it held. -/
def replyAfter (i : Instr) (s : State) : Option Word :=
  match i with
  | .rdCmd | .rdRsvd _ => some 0
  | .rdStatus => some s.status
  | .rdMsgLen => some s.msgLen
  | .rdDigest k => some (s.digestReg k.toFin)
  | _ => s.reply

theorem hashOp_reply (a : Alg) (s : State) : (hashOp a s).reply = s.reply := by
  rcases hashOp_cases a s with ⟨-, e⟩ | ⟨-, -, e⟩ | ⟨-, -, -, e⟩ | ⟨-, -, -, e⟩ <;> rw [e] <;> rfl

theorem reply_eq_replyAfter {x : HostTxn} {i : Instr} {s t : State} (hd : decodeTxn x = .instr i)
    (h : exec i s = .next t) : t.reply = replyAfter i s := by
  rcases decodeTxn_cases hd with rfl | rfl | rfl | ⟨r, rfl⟩ | ⟨k, rfl⟩ | ⟨d, rfl⟩ | ⟨d, rfl⟩ | ⟨r, d, rfl⟩ | ⟨a, b, rfl⟩ | rfl
  case inr.inr.inr.inr.inr.inl =>
    rcases wrCmd_cases d s with ⟨-, e⟩ | ⟨-, -, e⟩ | ⟨-, a, -, e⟩ | ⟨-, -, e⟩ <;> rw [e] at h <;> cases h
    case inr.inr.inl => exact hashOp_reply a s
    all_goals rfl
  case inr.inr.inr.inr.inr.inr.inl =>
    rcases wrMsgLen_cases d s with ⟨-, e⟩ | ⟨-, -, e⟩ | ⟨-, -, e⟩ <;> rw [e] at h <;> cases h <;> rfl
  case inr.inr.inr.inr.inr.inr.inr.inr.inl =>
    rcases wrb_cases a b s with ⟨-, e⟩ | ⟨-, -, e⟩ | ⟨-, -, -, e⟩ | ⟨-, -, -, e⟩ <;> rw [e] at h <;> cases h <;> rfl
  all_goals cases h; rfl

/-- Two states that show the host the same leave it the same reply. -/
theorem replyAfter_congr {s1 s2 : State} (hstatus : s1.status = s2.status) (hlen : s1.msgLen = s2.msgLen)
    (hdigest : ∀ k, s1.digestReg k = s2.digestReg k) (hreply : s1.reply = s2.reply) (i : Instr) :
    replyAfter i s1 = replyAfter i s2 := by
  cases i
  case rdStatus => exact congrArg some hstatus
  case rdMsgLen => exact congrArg some hlen
  case rdDigest k => exact congrArg some (hdigest k.toFin)
  case rdCmd | rdRsvd => rfl
  all_goals exact hreply

/-! ## Power-on -/

section
variable {s : State} (h : AtPowerOn s)
include h

theorem AtPowerOn.status_eq : s.status = 0 := by
  simp [State.status, h.phase, h.alg, h.err, Phase.fatal, Phase.isDone, Phase.busy]

theorem AtPowerOn.digestReg_eq (i : Fin 8) : s.digestReg i = 0 :=
  State.digestReg_of_not_done i (by simp [h.phase])

theorem AtPowerOn.read_eq (a : Nat) : Memory.read s.msg a = none := by rw [h.msg]; rfl

theorem AtPowerOn.msgByte_eq (a : Nat) : s.msgByte a = Config.unwrittenByte s.chip a := by
  rw [State.msgByte, h.read_eq]

end

end Machine

open Machine

/-- Settles O14: the reply is a function of what the host can see. -/
theorem hostCannotReadHiddenState : Obligations.HostCannotReadHiddenState := by
  intro s1 s2 x i t1 t2 hstatus hlen hdigest hreply hd h1 h2
  rw [reply_eq_replyAfter hd h1, reply_eq_replyAfter hd h2, replyAfter_congr hstatus hlen hdigest hreply]

/-- Settles O10, phase by phase. -/
theorem flagsAreFunctionsOfPhase : Obligations.FlagsAreFunctionsOfPhase := by
  intro p
  cases p <;> decide

/-- Settles O12: the gate is the phase, the width that of `narrow`. -/
theorem digestReadIsGatedByDone : Obligations.DigestReadIsGatedByDone := by
  refine ⟨decodeTxn_rdDigest, fun s i => ?_⟩
  rw [exec_rdDigest]
  refine ⟨fun hp => ?_, fun hp ha => ?_, fun hp ha => ?_, fun h hp ha hi => ?_⟩
  · rw [State.digestReg_of_not_done _ hp]
  · rw [State.digestReg_of_done _ hp, State.accWord_of_alg (a := .sha512) _ ha]
    rfl
  · rw [State.digestReg_of_done _ hp, ← zext64_low32]
    rcases ha with ha | ha
    · rw [State.accWord_of_alg (a := .sha1) _ ha]; rfl
    · rw [State.accWord_of_alg (a := .sha256) _ ha]; rfl
  · rw [h.unused_digestReg hp ha hi]

/-- Settles O23: each part reads one of the registers `AtPowerOn` fixes. -/
theorem powerOnStateIsAsSpecified : Obligations.PowerOnStateIsAsSpecified := by
  refine ⟨rfl, fun c chip => ⟨rfl, atPowerOn_powerOn c chip⟩, fun s h => ⟨h.status_eq, h.digestReg_eq, ?_,
    fun a => ⟨h.read_eq a, h.msgByte_eq a⟩⟩⟩
  rw [exec_rdStatus, h.status_eq]

end Sys2Proof
end

section
/-! The padded message (O28, O29): `paddedMessage` part by part, which `PMRead` is once `PAD` has run; and that
big-endian bytes put together again give the number they were cut from. -/

namespace Sys2Proof

namespace Machine

/-! ## The parts of the padded message -/

/-- The padded message fills its blocks exactly (40_padding.md R103). -/
theorem blockCount_mul_bs (a : Alg) (l : Nat) : blockCount a l * a.bs = l + 1 + padLen a l + a.lfb := by
  cases a <;> simp only [blockCount, padLen, Alg.bs, Alg.lfb] <;> omega

section
variable (a : Alg) (m : Nat → Byte) (l : Nat) {j k : Nat}

theorem paddedMessage_of_lt (h : j < l) : paddedMessage a m l j = m j := by
  have hin : ¬blockCount a l * a.bs ≤ j := by rw [blockCount_mul_bs]; omega
  rw [paddedMessage, paddedByte, if_neg hin, if_pos h]

theorem paddedMessage_sentinel : paddedMessage a m l l = 0x80#8 := by
  have hin : ¬blockCount a l * a.bs ≤ l := by rw [blockCount_mul_bs]; omega
  rw [paddedMessage, paddedByte, if_neg hin, if_neg (by omega), if_pos rfl]

theorem paddedMessage_zeroFill (h : l < j) (hp : j < l + 1 + padLen a l) : paddedMessage a m l j = 0x00#8 := by
  have hin : ¬blockCount a l * a.bs ≤ j := by rw [blockCount_mul_bs]; omega
  rw [paddedMessage, paddedByte, if_neg hin, if_neg (by omega), if_neg (by omega), if_pos hp]

theorem paddedMessage_trailer (h : k < a.lfb) :
    paddedMessage a m l (l + 1 + padLen a l + k) = trailerByte a l k := by
  have hin : ¬blockCount a l * a.bs ≤ l + 1 + padLen a l + k := by rw [blockCount_mul_bs]; omega
  rw [paddedMessage, paddedByte, if_neg hin, if_neg (by omega), if_neg (by omega), if_neg (by omega),
    if_pos (by omega), Nat.add_sub_cancel_left]

end

theorem trailerByte_toNat {a : Alg} {l : Nat} (h : 8 * l < 2 ^ (8 * a.lfb)) (k : Nat) :
    (trailerByte a l k).toNat = 8 * l / 2 ^ (8 * (a.lfb - 1 - k)) % 256 := by
  rw [trailerByte, if_pos h, BitVec.toNat_ofNat]

/-- Once `PAD.alg` has run, `PMRead` reads the padded message of the message in the memory. -/
theorem pmRead_eq_paddedMessage {a : Alg} {s : State} (hp : s.padp.toNat = padLen a s.msgLen.toNat)
    (hn : s.nblk = blockCount a s.msgLen.toNat) : s.pmRead a = paddedMessage a s.msgByte s.msgLen.toNat := by
  funext j
  rw [State.pmRead, paddedMessage, hp, hn]

/-! ## Big-endian bytes -/

/-- The first `j` of the `n` big-endian bytes of `x`, put together, are what is left of `x` above the others. -/
theorem foldl_bigEndian {n x : Nat} (hx : x < 2 ^ (8 * n)) {f : Nat → Nat}
    (hf : ∀ k < n, f k = x / 2 ^ (8 * (n - 1 - k)) % 256) {j : Nat} (hj : j ≤ n) :
    (List.range j).foldl (fun acc k => acc * 256 + f k) 0 = x / 2 ^ (8 * (n - j)) := by
  induction j with
  | zero => simp [Nat.div_eq_of_lt hx]
  | succ j ih =>
    have hsplit : 2 ^ (8 * (n - j)) = 2 ^ (8 * (n - 1 - j)) * 256 := by
      rw [show 8 * (n - j) = 8 * (n - 1 - j) + 8 by omega, Nat.pow_add]
    rw [List.range_succ, List.foldl_append, ih (by omega), List.foldl_cons, List.foldl_nil, hf j (by omega), hsplit,
      ← Nat.div_div_eq_div_mul, Nat.div_add_mod', show n - (j + 1) = n - 1 - j by omega]

end Machine

open Machine

/-- Settles O28: `PMRead` is the padded message, whose four parts meet at the block boundary. -/
theorem paddedMessageContract : Obligations.PaddedMessageContract := by
  intro s a j hp hn hj
  rw [pmRead_eq_paddedMessage hp hn, hp]
  rw [hn, blockCount_mul_bs] at hj
  refine ⟨paddedMessage_of_lt a _ _, ?_, paddedMessage_zeroFill a _ _, fun h => ?_⟩
  · rintro rfl
    exact paddedMessage_sentinel a _ _
  · obtain ⟨k, rfl⟩ := Nat.exists_eq_add_of_le h
    have hk : k < a.lfb := by omega
    rw [Nat.add_sub_cancel_left, paddedMessage_trailer a _ _ hk]
    exact ⟨hk, fun hfits => trailerByte_toNat hfits k⟩

/-- Settles O29: the last `lfb` bytes are the trailer's, and those are the big-endian bytes of the bit length. -/
theorem trailerDecodesToBitLength : Obligations.TrailerDecodesToBitLength := by
  intro a m l hfits
  have hbyte : ∀ k < a.lfb, (paddedMessage a m l (blockCount a l * a.bs - a.lfb + k)).toNat =
      8 * l / 2 ^ (8 * (a.lfb - 1 - k)) % 256 := fun k hk => by
    rw [blockCount_mul_bs, Nat.add_sub_cancel, paddedMessage_trailer a m l hk, trailerByte_toNat hfits]
  rw [foldl_bigEndian hfits hbyte le_rfl]
  simp

end Sys2Proof
end

section
/-! The message memory in a step: where `LDBLK` stops (O32), the canonical form (O48), and the message of a run (O52,
O56). -/

namespace Sys2Proof

theorem Phase.not_busy_of_quiescent {p : Phase} (h : p = .idle ∨ p = .done) : p.busy = false := by
  rcases h with rfl | rfl <;> rfl

theorem Phase.not_fatal_of_quiescent {p : Phase} (h : p = .idle ∨ p = .done) : p.fatal = false := by
  rcases h with rfl | rfl <;> rfl

namespace Machine

/-- `LDBLK.alg` stops exactly when some byte it takes from the message is outside the memory. -/
theorem ldblkOp_faults_iff {a : Alg} {s : State} : (∃ addr, ldblkOp a s = .fault (.msgOutside addr)) ↔
    ∃ j, s.bi * a.bs ≤ j ∧ j < s.bi * a.bs + a.bs ∧ j < s.nblk * a.bs ∧ j < s.msgLen.toNat ∧ s.cfg.msgCap ≤ j := by
  have hstop : (∃ addr, ldblkOp a s = .fault (.msgOutside addr)) ↔ s.outsideAddress a ≠ none := by
    rcases ldblkOp_cases a s with ⟨addr, ho, e⟩ | ⟨ho, e⟩ <;> simp [ho, e]
  rw [hstop, Ne, outsideAddress_eq_none]
  push Not
  exact exists_congr fun _ => ⟨fun ⟨h1, h2, h3, h4, hcap⟩ => ⟨h1, h2, h4, h3, hcap⟩,
    fun ⟨h1, h2, h4, h3, hcap⟩ => ⟨h1, h2, h3, h4, hcap⟩⟩

/-- Only `WRB` writes the memory, and its write keeps the canonical form. -/
theorem HostWrites.keeps_memory_wf {i : Instr} {s t : State} (h : HostWrites s i t) (hm : Memory.wf s.msg) :
    Memory.wf t.msg := by
  cases h
  case byte a b => exact State.storeByte_memory_wf hm a.toNat b
  all_goals exact hm

/-- While busy a transaction other than `RESET` is read, discarded or rejected (60_exceptions.md R214). -/
theorem HostEffect.frame_of_busy {i : Instr} {s t : State} (h : HostEffect i s t) (hb : s.phase.busy = true) :
    i = .reset ∨ t = { s with err := t.err, reply := t.reply } := by
  rcases h with rfl | ⟨r, rfl⟩ | ⟨-, c, -, rfl⟩ | ⟨-, hq, -⟩ | ⟨-, hq, -⟩ | ⟨-, hq, -⟩ | ⟨hr, -⟩
  case inr.inr.inr.inr.inr.inr => exact .inl hr
  case inl | inr.inl | inr.inr.inl => exact .inr rfl
  all_goals simp [hb] at hq

/-- A quiescent core accepts `HASH.alg` for a message the memory can hold (44_host_interface.md R197). -/
theorem hashOp_of_quiescent (a : Alg) {s : State} (hq : s.phase = .idle ∨ s.phase = .done)
    (hl : s.msgLen.toNat ≤ s.cfg.msgCap) : hashOp a s = s.accept a := by
  simp [hashOp, Phase.not_fatal_of_quiescent hq, Phase.not_busy_of_quiescent hq, Nat.not_lt.2 hl]

/-- In PAD nothing of the run has been computed: it follows the digest function of the message in the memory. -/
theorem follows_accept (a : Alg) {s : State} (hl : s.msgLen.toNat ≤ s.cfg.msgCap) :
    Follows a s.msgByte s.msgLen.toNat (s.accept a) := by
  constructor
  case alg => rfl
  case message => exact fun _ => ⟨rfl, hl, fun _ _ => State.msgByte_congr rfl rfl _⟩
  case started => exact ⟨nofun, rfl⟩
  all_goals simp [Phase.padded, Phase.inBlock]

end Machine

open Machine

/-- Settles O32, by `ldblkOp_faults_iff`. -/
theorem blockLoadStopsOnlyOutsideTheMemory : Obligations.BlockLoadStopsOnlyOutsideTheMemory := by
  intro s i a hi
  have hexec : exec i s = ldblkOp a s := by
    rcases hi with hi | hi | hi <;> cases hi <;> rfl
  rw [hexec]
  refine ⟨ldblkOp_faults_iff, ?_⟩
  rcases ldblkOp_cases a s with ⟨addr, -, e⟩ | ⟨-, e⟩
  · exact .inl ⟨addr, e⟩
  · exact .inr ⟨_, e⟩

/-- Settles O48: a host's turn by what its transaction writes; the sequencer's turn leaves the memory as it is. -/
theorem stepKeepsMemoryCanonical : Obligations.StepKeepsMemoryCanonical := by
  intro s t hm h
  rcases step_cases h with ⟨x, rest, i, -, hd, hx⟩ | ⟨hseq, -⟩
  · exact (host_writes hd hx).keeps_memory_wf hm
  · obtain ⟨-, -, hmsg, -⟩ := sequencerStep_keeps h hseq
    rwa [hmsg]

/-- Settles O52: while busy a transaction but `RESET` reaches only `ERR` and the reply, and the sequencer writes none
of the three. -/
theorem runningMessageIsImmutable : Obligations.RunningMessageIsImmutable := by
  intro s t hb h
  rcases step_cases h with ⟨x, rest, i, ht, hd, hx⟩ | ⟨hseq, -⟩
  · rcases HostEffect.frame_of_busy (host_cases hd hx) hb with rfl | hframe
    · exact .inl ⟨x, rest, ht, hd⟩
    · exact .inr (by rw [hframe]; exact ⟨rfl, rfl, rfl⟩)
  · obtain ⟨-, -, hkeeps⟩ := sequencerStep_keeps h hseq
    exact .inr hkeeps

/-- Settles O56: the accepted command leads to PAD, where the run follows the digest function. -/
theorem acceptedCommandStartsTheRun : Obligations.AcceptedCommandStartsTheRun := by
  intro s i a hi hq hl
  have hexec : exec i s = .next (hashOp a s) := by
    rcases hi with hi | hi | hi <;> cases hi <;> rfl
  exact ⟨s.accept a, by rw [hexec, hashOp_of_quiescent a hq hl], follows_accept a hl⟩

end Sys2Proof
end

section
/-! The three formats (O1 to O5): the decoders and the encoder undo each other. Formats U and T are taken field by
field, since every code is a pair of a phase and an algorithm (`exists_microCode`), every descriptor a pair of a kind
and a register number (`exists_txnCode`). -/

namespace Sys2Proof

/-! ## Format U -/

theorem microCode_toNat (p : Phase) (alg : BitVec 2) : (microCode p alg).toNat = 4 * p.code.toNat + alg.toNat := by
  revert alg
  cases p <;> decide

theorem exists_microCode (c : BitVec 6) : ∃ p alg, c = microCode p alg :=
  ⟨Phase.ofCode (microPhase c), microAlg c, by revert c; decide⟩

/-- Phases whose codes are reserved (30_encoding.md R92). -/
def Phase.IsReserved (p : Phase) : Prop := p = .reservedB ∨ p = .reservedC ∨ p = .reservedD ∨ p = .reservedE

/-- Phases in which the sequencer has no step (30_encoding.md R87). -/
def Phase.IsStill (p : Phase) : Prop := p = .idle ∨ p = .done ∨ p = .fault

theorem Phase.busy_iff_code (p : Phase) : p.busy = true ↔ 1 ≤ p.code.toNat ∧ p.code.toNat ≤ 9 :=
  (flagsAreFunctionsOfPhase p).1

theorem Phase.isReserved_iff_code (p : Phase) : p.IsReserved ↔ 0xB ≤ p.code.toNat ∧ p.code.toNat ≤ 0xE := by
  cases p <;> simp [Phase.IsReserved, Phase.code]

theorem Phase.isStill_iff_code (p : Phase) :
    p.IsStill ↔ p.code.toNat = 0 ∨ p.code.toNat = 0xA ∨ p.code.toNat = 0xF := by
  cases p <;> simp [Phase.IsStill, Phase.code]

theorem Phase.busy_or_isReserved_or_isStill (p : Phase) : p.busy = true ∨ p.IsReserved ∨ p.IsStill := by
  cases p <;> simp [Phase.busy, Phase.IsReserved, Phase.IsStill]

theorem decodeMicro_of_busy {p : Phase} (hb : p.busy = true) (a : Alg) :
    ∃ i, decodeMicro (microCode p a.code) = .instr i ∧ encode i = .micro (microCode p a.code) := by
  cases p
  case idle | done | reservedB | reservedC | reservedD | reservedE | fault => cases hb
  all_goals cases a <;> exact ⟨_, rfl, rfl⟩

theorem decodeMicro_of_busy_zero {p : Phase} (hb : p.busy = true) :
    decodeMicro (microCode p 0#2) = .reject .reservedMicro := by
  cases p
  case idle | done | reservedB | reservedC | reservedD | reservedE | fault => cases hb
  all_goals rfl

theorem decodeMicro_of_isReserved {p : Phase} (hp : p.IsReserved) (alg : BitVec 2) :
    decodeMicro (microCode p alg) = .reject .reservedMicro := by
  rw [decodeMicro, microPhase_microCode, Phase.ofCode_code]
  rcases hp with rfl | rfl | rfl | rfl <;> rfl

theorem decodeMicro_of_isStill {p : Phase} (hp : p.IsStill) (alg : BitVec 2) :
    decodeMicro (microCode p alg) = .reject .noOperation := by
  rw [decodeMicro, microPhase_microCode, Phase.ofCode_code]
  rcases hp with rfl | rfl | rfl <;> rfl

/-! ## Format T -/

theorem txnCode_toNat (kind : BitVec 2) (reg : BitVec 4) : (txnCode kind reg).toNat = 16 * kind.toNat + reg.toNat := by
  revert kind reg
  decide

theorem txnKind_txnCode (kind : BitVec 2) (reg : BitVec 4) : txnKind (txnCode kind reg) = kind := by
  revert kind reg
  decide

theorem txnReg_txnCode (kind : BitVec 2) (reg : BitVec 4) : txnReg (txnCode kind reg) = reg := by
  revert kind reg
  decide

theorem exists_txnCode (c : BitVec 6) : ∃ kind reg, c = txnCode kind reg :=
  ⟨txnKind c, txnReg c, by revert c; decide⟩

section
variable (reg : BitVec 4) (a d : Word)

theorem decodeTxn_read : decodeTxn ⟨txnCode 0#2 reg, a, d⟩ = .instr (decodeRead reg) := by
  simp [decodeTxn, txnKind_txnCode, txnReg_txnCode]

theorem decodeTxn_write : decodeTxn ⟨txnCode 1#2 reg, a, d⟩ = .instr (decodeWrite reg d) := by
  simp [decodeTxn, txnKind_txnCode, txnReg_txnCode]

theorem decodeTxn_byte : decodeTxn ⟨txnCode 2#2 0#4, a, d⟩ = .instr (.wrb a (d.setWidth 8)) := by
  simp [decodeTxn, txnKind_txnCode, txnReg_txnCode]

theorem decodeTxn_reset : decodeTxn ⟨txnCode 3#2 0#4, a, d⟩ = .instr .reset := by
  simp [decodeTxn, txnKind_txnCode, txnReg_txnCode]

end

/-- `WRB` and `RESET` take no register number (30_encoding.md R88). -/
theorem decodeTxn_noTransaction {kind : BitVec 2} {reg : BitVec 4} (hk : kind = 2#2 ∨ kind = 3#2) (hr : reg ≠ 0#4)
    (a d : Word) : decodeTxn ⟨txnCode kind reg, a, d⟩ = .reject .noTransaction := by
  rcases hk with rfl | rfl <;> simp [decodeTxn, txnKind_txnCode, txnReg_txnCode, hr]

theorem decodeRead_rdRsvd {reg : BitVec 4} (h : (Instr.rdRsvd reg).wf = true) : decodeRead reg = .rdRsvd reg := by
  revert reg
  decide

theorem decodeRead_rdDigest (i : BitVec 3) : decodeRead (1#1 ++ i) = .rdDigest i := by
  revert i
  decide

theorem decodeWrite_wrRo {reg : BitVec 4} {d : Word} (h : (Instr.wrRo reg d).wf = true) :
    decodeWrite reg d = .wrRo reg d := by
  have hreg : ∀ r : BitVec 4, r = 1#4 ∨ 3#4 ≤ r → r ≠ 0#4 ∧ r ≠ 2#4 := by decide
  obtain ⟨h0, h2⟩ := hreg reg (by simpa [Instr.wf] using h)
  simp [decodeWrite, h0, h2]

/-- Every register number reads as a well-formed instruction whose descriptor it is. -/
theorem encode_decodeRead (reg : BitVec 4) :
    (decodeRead reg).wf = true ∧ encode (decodeRead reg) = .txn ⟨txnCode 0#2 reg, 0, 0⟩ := by
  revert reg
  decide

/-- Every register number is written by a well-formed instruction whose descriptor it is. -/
theorem encode_decodeWrite (reg : BitVec 4) (d : Word) :
    (decodeWrite reg d).wf = true ∧ encode (decodeWrite reg d) = .txn ⟨txnCode 1#2 reg, 0, d⟩ := by
  by_cases h0 : reg = 0#4
  · subst h0
    exact ⟨rfl, rfl⟩
  by_cases h2 : reg = 2#4
  · subst h2
    exact ⟨rfl, rfl⟩
  have hro : decodeWrite reg d = .wrRo reg d := by simp [decodeWrite, h0, h2]
  have hreg : ∀ r : BitVec 4, r ≠ 0#4 → r ≠ 2#4 → r = 1#4 ∨ 3#4 ≤ r := by decide
  exact ⟨by simpa [hro, Instr.wf] using hreg reg h0 h2, by rw [hro]; rfl⟩

/-- Settles O1: a transaction's operands come back field by field; of the other formats every word is a constant. -/
theorem encodedInstructionDecodesToItself : Obligations.EncodedInstructionDecodesToItself := by
  intro i hi
  cases i
  case rdRsvd reg => exact (decodeTxn_read _ _ _).trans (by rw [decodeRead_rdRsvd hi])
  case rdDigest k => exact (decodeTxn_read _ _ _).trans (by rw [decodeRead_rdDigest])
  case wrRo reg d => exact (decodeTxn_write _ _ _).trans (by rw [decodeWrite_wrRo hi])
  case wrb a b => exact (decodeTxn_byte _ _).trans (by simp)
  case wrCmd d => exact decodeTxn_write 0#4 _ d
  case wrMsgLen d => exact decodeTxn_write 2#4 _ d
  case next a | fin a => cases a <;> rfl
  all_goals rfl

/-- Settles O2: by the fields of the code, in a busy, a reserved or a still phase. -/
theorem microOperationCodesAreExact : Obligations.MicroOperationCodesAreExact := by
  intro c
  obtain ⟨p, alg, rfl⟩ := exists_microCode c
  have hphase : (microCode p alg).toNat / 4 = p.code.toNat := by rw [microCode_toNat]; omega
  have halg : (microCode p alg).toNat % 4 = alg.toNat := by rw [microCode_toNat]; omega
  rw [hphase, halg]
  rcases p.busy_or_isReserved_or_isStill with hp | hp | hp
  · have hcode := p.busy_iff_code.1 hp
    rcases byAlg_cases alg fun _ => .nop with ⟨a, rfl, -⟩ | ⟨rfl, -⟩
    · obtain ⟨i, hd, he⟩ := decodeMicro_of_busy hp a
      have hne : a.code.toNat ≠ 0 := by cases a <;> decide
      rw [hd]
      exact ⟨fun _ => ⟨i, rfl, he⟩, iff_of_false nofun (by omega), iff_of_false nofun (by omega)⟩
    · have hzero : (0#2).toNat = 0 := rfl
      rw [decodeMicro_of_busy_zero hp]
      exact ⟨fun h => absurd h (by omega), iff_of_true rfl (by omega), iff_of_false nofun (by omega)⟩
  · have hcode := p.isReserved_iff_code.1 hp
    rw [decodeMicro_of_isReserved hp]
    exact ⟨fun h => absurd h (by omega), iff_of_true rfl (by omega), iff_of_false nofun (by omega)⟩
  · have hcode := p.isStill_iff_code.1 hp
    rw [decodeMicro_of_isStill hp]
    exact ⟨fun h => absurd h (by omega), iff_of_false nofun (by omega), iff_of_true rfl (by omega)⟩

/-- Settles O3: kinds 0 and 1 take every register number, kinds 2 and 3 the number 0 alone. -/
theorem transactionDescriptorsAreExact : Obligations.TransactionDescriptorsAreExact := by
  rintro ⟨c, a, d⟩
  obtain ⟨kind, reg, rfl⟩ := exists_txnCode c
  simp only [txnCode_toNat]
  have hlt := reg.isLt
  have hpos : ∀ r : BitVec 4, r ≠ 0#4 → 1 ≤ r.toNat := by decide
  rcases (by decide : ∀ k : BitVec 2, k = 0#2 ∨ k = 1#2 ∨ k = 2#2 ∨ k = 3#2) kind with rfl | rfl | rfl | rfl <;>
    simp only [BitVec.toNat_ofNat]
  · obtain ⟨hwf, he⟩ := encode_decodeRead reg
    rw [decodeTxn_read]
    exact ⟨iff_of_false nofun (by omega), fun _ => ⟨_, rfl, hwf, _, he, rfl⟩⟩
  · obtain ⟨hwf, he⟩ := encode_decodeWrite reg d
    rw [decodeTxn_write]
    exact ⟨iff_of_false nofun (by omega), fun _ => ⟨_, rfl, hwf, _, he, rfl⟩⟩
  · by_cases hr : reg = 0#4
    · subst hr
      rw [decodeTxn_byte]
      exact ⟨iff_of_false nofun (by simp), fun _ => ⟨_, rfl, rfl, _, rfl, rfl⟩⟩
    · have hreg := hpos reg hr
      rw [decodeTxn_noTransaction (.inl rfl) hr]
      exact ⟨iff_of_true rfl (by omega), fun h => absurd (by omega) h⟩
  · by_cases hr : reg = 0#4
    · subst hr
      rw [decodeTxn_reset]
      exact ⟨iff_of_false nofun (by simp), fun _ => ⟨_, rfl, rfl, _, rfl, rfl⟩⟩
    · have hreg := hpos reg hr
      rw [decodeTxn_noTransaction (.inr rfl) hr]
      exact ⟨iff_of_true rfl (by omega), fun h => absurd (by omega) h⟩

/-- Settles O4: each word is the encoding of its instruction. -/
theorem tableWordsDecode : Obligations.TableWordsDecode :=
  have h := encodedInstructionDecodesToItself
  ⟨h .nop rfl, h .hashSha1 rfl, h .hashSha512 rfl, h .padSha1 rfl, h .initSha512 rfl, h .ldblkSha256 rfl,
   h .expSha1 rfl, h .ldvSha256 rfl, h .rndSha512 rfl, h .accumSha1 rfl, h (.next .sha256) rfl, h (.fin .sha1) rfl,
   h .rdStatus rfl, h (.rdDigest 7#3) rfl, h (.wrMsgLen 56#64) rfl, h (.wrb 2#64 0x63#8) rfl, h .reset rfl⟩

/-! ## Format C -/

/-- The fields that make a command word illegal, against the four legal words (30_encoding.md R86, R90). -/
theorem command_fields_illegal_iff (w : Word) :
    (w.extractLsb' 8 56 ≠ 0#56 ∨ w.extractLsb' 2 2 ≠ 0#2 ∨ 2 ≤ (w.extractLsb' 4 4).toNat ∨
        (w.extractLsb' 4 4 = 1#4 ∧ w.extractLsb' 0 2 = 0#2) ∨ (w.extractLsb' 4 4 = 0#4 ∧ w.extractLsb' 0 2 ≠ 0#2)) ↔
      (w ≠ 0x00#64 ∧ w ≠ 0x11#64 ∧ w ≠ 0x12#64 ∧ w ≠ 0x13#64) := by
  have hw := w.isLt
  simp only [ne_eq, ← BitVec.toNat_inj, BitVec.extractLsb'_toNat, Nat.shiftRight_eq_div_pow, BitVec.toNat_ofNat]
  omega

theorem Phase.fatal_iff (p : Phase) : p.fatal = true ↔ p = .fault := decide_eq_true_iff

end Sys2Proof

namespace Sys2Proof.Machine

/-- A word that is no command is rejected, and in FAULT discarded (44_host_interface.md R195, R202). -/
theorem exec_wrCmd_illegal {w : Word} (hw : w ≠ 0x00#64 ∧ w ≠ 0x11#64 ∧ w ≠ 0x12#64 ∧ w ≠ 0x13#64) (s : State) :
    exec (.wrCmd w) s = .next (if s.phase.fatal = true then s else s.reject causeCmdIllegal) := by
  obtain ⟨h0, h1, h2, h3⟩ := hw
  rcases wrCmd_cases w s with ⟨hf, e⟩ | ⟨-, h, -⟩ | ⟨-, a, h, -⟩ | ⟨hf, -, e⟩
  · simp [hf, e]
  · exact absurd h h0
  · cases a
    · exact absurd h h1
    · exact absurd h h2
    · exact absurd h h3
  · simp [hf, e]

end Sys2Proof.Machine

namespace Sys2Proof

open Machine

/-- Settles O5, by the fields of the word and `exec_wrCmd_illegal`. -/
theorem illegalCommandWordIsRejected : Obligations.IllegalCommandWordIsRejected := by
  intro w s
  refine ⟨command_fields_illegal_iff w, fun hw => ?_⟩
  rw [exec_wrCmd_illegal hw]
  exact ⟨fun hp => by rw [if_neg (mt s.phase.fatal_iff.1 hp)]; rfl, fun hp => by rw [if_pos (s.phase.fatal_iff.2 hp)]⟩

end Sys2Proof
end

section
/-! One turn (O6 to O9): what `step` does is what `fetch` finds, the host's transaction or the sequencer's
micro-operation. -/

namespace Sys2Proof.Machine

section
variable {s : State}

theorem popTurn_of_nil (ht : s.turns = []) : s.popTurn = s := by
  rw [State.popTurn, ht, List.tail_nil, ← ht]

theorem popTurn_of_cons {u : Turn} {rest : List Turn} (ht : s.turns = u :: rest) :
    s.popTurn = { s with turns := rest } := by
  rw [State.popTurn, ht, List.tail_cons]

theorem step_host {x : HostTxn} {i : Instr} {rest : List Turn} (ht : s.turns = .host x :: rest)
    (hd : decodeTxn x = .instr i) : step s = exec i s.popTurn := by
  simp only [step, fetch, ht, fetchHost, hd]

theorem step_host_refused {x : HostTxn} {r : Reject} {rest : List Turn} (ht : s.turns = .host x :: rest)
    (hd : decodeTxn x = .reject r) : step s = .refused (.noTransaction x.code) := by
  simp only [step, fetch, ht, fetchHost, hd]

/-- The sequencer moves when its turn is listed and when none is (assumption 8), with the same effect. -/
theorem step_sequencer {r : State → Host.Outcome State Fault Refusal}
    (h : fetch s = fetchMicro s.popTurn → step s = r s.popTurn) :
    (s.turns = [] → step s = r s) ∧ (∀ rest, s.turns = .seq :: rest → step s = r { s with turns := rest }) := by
  refine ⟨fun ht => ?_, fun rest ht => ?_⟩
  · rw [h (by simp only [fetch, ht]), popTurn_of_nil ht]
  · rw [h (by simp only [fetch, ht]), popTurn_of_cons ht]

theorem fetchMicro_of_instr {i : Instr} (hd : decodeMicro (microCode s.phase s.alg) = .instr i) :
    fetchMicro s = .run i s := by
  simp only [fetchMicro, State.microCode, hd]

theorem fetchMicro_of_isStill (hp : s.phase.IsStill) : fetchMicro s = .move s := by
  simp only [fetchMicro, State.microCode, decodeMicro_of_isStill hp]

theorem fetchMicro_of_reservedMicro (hd : decodeMicro (microCode s.phase s.alg) = .reject .reservedMicro) :
    fetchMicro s = .move s.raiseFault := by
  simp only [fetchMicro, State.microCode, hd]

end

end Sys2Proof.Machine

namespace Sys2Proof

open Machine

/-- Settles O6. -/
theorem stepRunsHostTransaction : Obligations.StepRunsHostTransaction := fun _ _ _ ht =>
  ⟨fun _ hd => by rw [step_host ht hd, popTurn_of_cons ht], fun _ hd => step_host_refused ht hd⟩

/-- Settles O7: the turn fetches the micro-operation, with `PHASE` and `ALG` as they were before it. -/
theorem stepRunsMicroOperation : Obligations.StepRunsMicroOperation := fun s i hd =>
  step_sequencer (r := exec i) fun hf => by
    rw [step, hf, fetchMicro_of_instr (s := s.popTurn) hd]

/-- Settles O8: a phase that is still fetches nothing. -/
theorem quiescentSequencerChangesNothing : Obligations.QuiescentSequencerChangesNothing := fun s hp =>
  step_sequencer (r := .next) fun hf => by
    rw [step, hf, fetchMicro_of_isStill (s := s.popTurn) hp]

/-- Settles O9: both ranges of codes decode to the same refusal, which the turn answers with the fault. -/
theorem reservedCodeTakesTheFault : Obligations.ReservedCodeTakesTheFault := by
  intro s hs
  have hd : decodeMicro (microCode s.phase s.alg) = .reject .reservedMicro := by
    rcases hs with hres | ⟨h1, h9, halg⟩
    · exact decodeMicro_of_isReserved (s.phase.isReserved_iff_code.2 hres) s.alg
    · rw [halg]
      exact decodeMicro_of_busy_zero (s.phase.busy_iff_code.2 ⟨h1, h9⟩)
  exact step_sequencer (r := fun u => .next u.raiseFault) fun hf => by
    rw [step, hf, fetchMicro_of_reservedMicro (s := s.popTurn) hd]

end Sys2Proof
end

section
/-! The `MSG` line of a host program (O55): its `WRB` turns store one byte each, by induction over the bytes, and its
`WR MSG_LEN` turn the length. -/

namespace Sys2Proof.Machine

/-! ## The state after a row of `WRB` turns -/

/-- The state after the turns that store the bytes at the addresses from `k` on (`run_byteTxns`). -/
def State.takeByteTurns (s : State) : Nat → List Byte → State
  | _, [] => s
  | k, b :: bs => (s.popTurn.storeByte k b).takeByteTurns (k + 1) bs

/-- The turns are taken off the list, and else only the memory changes. -/
theorem takeByteTurns_frame (s : State) (k : Nat) (bytes : List Byte) :
    s.takeByteTurns k bytes =
      { s with msg := (s.takeByteTurns k bytes).msg, turns := s.turns.drop bytes.length } := by
  induction bytes generalizing s k with
  | nil => rfl
  | cons b bs ih =>
    rw [List.length_cons, ← List.drop_tail]
    exact ih (s.popTurn.storeByte k b) (k + 1)

theorem msgByte_takeByteTurns_outside (s : State) {k a : Nat} (bytes : List Byte)
    (h : a < k ∨ k + bytes.length ≤ a) : (s.takeByteTurns k bytes).msgByte a = s.msgByte a := by
  induction bytes generalizing s k with
  | nil => rfl
  | cons b bs ih =>
    rw [List.length_cons] at h
    rw [State.takeByteTurns, ih _ (by omega), State.msgByte_storeByte_other _ b (by omega)]
    rfl

theorem msgByte_takeByteTurns_inside (s : State) (k : Nat) (bytes : List Byte) (i : Nat) (h : i < bytes.length) :
    (s.takeByteTurns k bytes).msgByte (k + i) = bytes[i] := by
  induction bytes generalizing s k i with
  | nil => cases h
  | cons b bs ih =>
    cases i with
    | zero =>
      exact (msgByte_takeByteTurns_outside _ bs (.inl (by omega))).trans (State.msgByte_storeByte_same s.popTurn k b)
    | succ i =>
      rw [show k + (i + 1) = k + 1 + i by omega]
      exact ih (s.popTurn.storeByte k b) (k + 1) i (Nat.lt_of_succ_lt_succ h)

/-! ## The turns of the line -/

theorem run_succ_of_next {s t : State} (h : step s = .next t) (n : Nat) :
    Host.Core.run Sys2Proof.core (n + 1) s = Host.Core.run Sys2Proof.core n t := by
  simp only [Host.Core.run, show Sys2Proof.core.step s = .next t from h]

theorem decodeTxn_byteTxn (a : Word) (b : Byte) : decodeTxn (byteTxn a b) = .instr (.wrb a b) :=
  encodedInstructionDecodesToItself (.wrb a b) rfl

theorem decodeTxn_writeTxn_msgLen (d : Word) : decodeTxn (writeTxn 2#4 d) = .instr (.wrMsgLen d) :=
  encodedInstructionDecodesToItself (.wrMsgLen d) rfl

section
variable {s : State} (hq : s.phase = .idle ∨ s.phase = .done)
include hq

theorem exec_wrb_of_quiescent {a : Word} (ha : a.toNat < s.cfg.msgCap) (b : Byte) :
    exec (.wrb a b) s = .next (s.storeByte a.toNat b) := by
  simp [exec, execWrb, Phase.not_fatal_of_quiescent hq, Phase.not_busy_of_quiescent hq, Nat.not_le.2 ha]

theorem exec_wrMsgLen_of_quiescent (d : Word) : exec (.wrMsgLen d) s = .next (s.setMsgLen d) := by
  simp [exec, execWrMsgLen, Phase.not_fatal_of_quiescent hq, Phase.not_busy_of_quiescent hq]

/-- The `WRB` turns of a row of bytes that the memory has room for store them all. -/
theorem run_byteTxns {k : Nat} {bytes : List Byte} {rest : List Turn} (n : Nat)
    (hcap : k + bytes.length ≤ s.cfg.msgCap) (haddr : k + bytes.length ≤ 2 ^ 64)
    (ht : s.turns = (byteTxns k bytes).map .host ++ rest) :
    Host.Core.run Sys2Proof.core (bytes.length + n) s =
      Host.Core.run Sys2Proof.core n (s.takeByteTurns k bytes) := by
  induction bytes generalizing s k with
  | nil => rw [List.length_nil, Nat.zero_add, State.takeByteTurns]
  | cons b bs ih =>
    rw [List.length_cons] at hcap haddr
    have hk : (BitVec.ofNat 64 k).toNat = k := by rw [BitVec.toNat_ofNat, Nat.mod_eq_of_lt (by omega)]
    have hstep : step s = .next (s.popTurn.storeByte k b) := by
      have hroom : (BitVec.ofNat 64 k).toNat < s.popTurn.cfg.msgCap := by rw [hk, State.popTurn_cfg]; omega
      rw [step_host ht (decodeTxn_byteTxn _ b), exec_wrb_of_quiescent (s := s.popTurn) hq hroom, hk]
    rw [List.length_cons, Nat.add_right_comm, run_succ_of_next hstep]
    exact ih (s := s.popTurn.storeByte k b) hq (by simp only [State.storeByte_cfg, State.popTurn_cfg]; omega)
      (by omega) (by rw [State.storeByte_turns, State.popTurn_turns, ht]; rfl)

end

theorem lengthOf_ofNat {c : Platform} {n : Nat} (hw : c.lenw ≤ 64) (hn : n < 2 ^ c.lenw) :
    (lengthOf c (BitVec.ofNat 64 n)).toNat = n := by
  have h64 : n < 2 ^ 64 := Nat.lt_of_lt_of_le hn (Nat.pow_le_pow_right (by omega) hw)
  simp only [lengthOf, BitVec.toNat_ofNat, Nat.mod_eq_of_lt h64, Nat.mod_eq_of_lt hn]

theorem hostTurns_msg (bytes : List Byte) : hostTurns [.msg bytes] =
    (byteTxns 0 bytes).map .host ++ [.host (writeTxn 2#4 (BitVec.ofNat 64 bytes.length))] := by
  simp [hostTurns, HostLine.txns]

theorem length_byteTxns (k : Nat) (bytes : List Byte) : (byteTxns k bytes).length = bytes.length := by
  induction bytes generalizing k with
  | nil => rfl
  | cons b bs ih => rw [byteTxns, List.length_cons, List.length_cons, ih]

end Sys2Proof.Machine

namespace Sys2Proof

open Machine

/-- Settles O55: the `WRB` turns lead to `State.takeByteTurns`, and the last turn sets the length in that state. -/
theorem messageLineStoresTheMessage : Obligations.MessageLineStoresTheMessage := by
  intro s bytes hq hlenw hcap hlen ht
  rw [hostTurns_msg] at ht
  have h64 : bytes.length ≤ 2 ^ 64 := (Nat.le_of_lt hlen).trans (Nat.pow_le_pow_right (by omega) hlenw)
  have hframe := takeByteTurns_frame s 0 bytes
  rw [ht, List.drop_left' (by rw [List.length_map, length_byteTxns])] at hframe
  have hrun := run_byteTxns hq 1 (by omega) (by omega) ht
  have hin := msgByte_takeByteTurns_inside s 0 bytes
  have hout : ∀ a, bytes.length ≤ a → (s.takeByteTurns 0 bytes).msgByte a = s.msgByte a := fun a h =>
    msgByte_takeByteTurns_outside s bytes (.inr (by omega))
  generalize s.takeByteTurns 0 bytes = u at hframe hrun hin hout
  have hlast : step u = .next (u.popTurn.setMsgLen (BitVec.ofNat 64 bytes.length)) := by
    have hturns : u.turns = [.host (writeTxn 2#4 (BitVec.ofNat 64 bytes.length))] := by rw [hframe]
    rw [step_host hturns (decodeTxn_writeTxn_msgLen _)]
    exact exec_wrMsgLen_of_quiescent (s := u.popTurn) (by rwa [hframe]) _
  refine ⟨_, hrun.trans (run_succ_of_next hlast 0), ?_, ?_, fun i h => ?_, hout⟩
  · rw [hframe]
    rfl
  · have hcfg : u.popTurn.cfg = s.cfg := by rw [hframe]; rfl
    rw [State.setMsgLen_msgLen, hcfg]
    exact lengthOf_ofNat hlenw hlen
  · rw [← hin i h, Nat.zero_add]
    rfl

end Sys2Proof
end

section
/-! The padding stage (O24 to O27, O30, O31): the padding length and the block count, which `PAD` writes, and the
sixteen words `LDBLK` assembles from bytes. -/

namespace Sys2Proof.Machine

/-! ## The padding length -/

section
variable (a : Alg) (l : Nat)

/-- The padded message is a whole number of blocks (40_padding.md R103). -/
theorem padded_length_mod_bs : (l + 1 + padLen a l + a.lfb) % a.bs = 0 := by
  rw [← blockCount_mul_bs, Nat.mul_mod_left]

/-- No shorter fill reaches a block boundary: past the sentinel and the length field the boundary is `padLen` away. -/
theorem padLen_le_of_fills {q : Nat} (h : (l + 1 + q + a.lfb) % a.bs = 0) : padLen a l ≤ q := by
  cases a <;> simp only [padLen, Alg.bs, Alg.lfb] at h ⊢ <;> omega

theorem padLen_eq_zero_iff : padLen a l = 0 ↔ (l + 1 + a.lfb) % a.bs = 0 := by
  refine ⟨fun h => ?_, fun h => Nat.le_zero.1 (padLen_le_of_fills a l h)⟩
  simpa [h] using padded_length_mod_bs a l

/-- The sentinel and the length field spill into one block more than the message with its length field fills. -/
theorem blockCount_eq : blockCount a l = (l + a.lfb) / a.bs + 1 := by
  cases a <;> simp only [blockCount, padLen, Alg.bs, Alg.lfb] <;> omega

theorem blockCount_eq_one_iff : blockCount a l = 1 ↔ l ≤ a.bs - 1 - a.lfb := by
  have hlfb := a.lfb_lt_bs
  rw [blockCount_eq, Nat.add_eq_right, Nat.div_eq_zero_iff]
  omega

end

/-! ## The two block sizes -/

section
variable {a : Alg} (h : a = .sha1 ∨ a = .sha256) (l : Nat)
include h

theorem padLen_at64 : padLen a l = (64 - (l + 9) % 64) % 64 := by rcases h with rfl | rfl <;> rfl

theorem blockCount_at64 : blockCount a l = (l + 9 + padLen a l) / 64 := by
  rcases h with rfl | rfl <;> simp only [blockCount, Alg.bs, Alg.lfb] <;> congr 1 <;> omega

end

theorem padLen_at128 (l : Nat) : padLen .sha512 l = (128 - (l + 17) % 128) % 128 := rfl

theorem blockCount_at128 (l : Nat) : blockCount .sha512 l = (l + 17 + padLen .sha512 l) / 128 := by
  simp only [blockCount, Alg.bs, Alg.lfb]
  congr 1
  omega

/-! ## Big-endian words -/

/-- `k` bytes put together stay below `256 ^ k`. -/
theorem foldl_bytes_lt (f : Nat → Byte) (k : Nat) :
    (List.range k).foldl (fun n i => n * 256 + (f i).toNat) 0 < 256 ^ k := by
  induction k with
  | zero => simp
  | succ k ih =>
    have hbyte := (f k).isLt
    rw [List.range_succ, List.foldl_append, List.foldl_cons, List.foldl_nil, Nat.pow_succ]
    omega

/-- A word has room for its bytes. -/
theorem beWord_toNat (f : Nat → Byte) (b : Nat) {k : Nat} (hk : k ≤ 8) :
    (beWord f b k).toNat = (List.range k).foldl (fun n i => n * 256 + (f (b + i)).toNat) 0 := by
  rw [beWord, BitVec.toNat_ofNat, Nat.mod_eq_of_lt]
  calc _ < 256 ^ k := foldl_bytes_lt (fun i => f (b + i)) k
    _ ≤ 256 ^ 8 := Nat.pow_le_pow_right (by decide) hk
    _ = 2 ^ 64 := by decide

theorem blockWord_toNat_at32 {a : Alg} (h : a = .sha1 ∨ a = .sha256) (pm : Nat → Byte) (i j : Nat) :
    (blockWord a pm i j).toNat =
      (pm (i * 64 + 4 * j)).toNat * 2 ^ 24 + (pm (i * 64 + 4 * j + 1)).toNat * 2 ^ 16
      + (pm (i * 64 + 4 * j + 2)).toNat * 2 ^ 8 + (pm (i * 64 + 4 * j + 3)).toNat := by
  have hword : blockWord a pm i j = beWord pm (i * 64 + 4 * j) 4 := by
    rw [Nat.mul_comm 4 j]
    rcases h with rfl | rfl <;> rfl
  rw [hword, beWord_toNat pm _ (by decide)]
  simp only [List.range_succ, List.range_zero, List.nil_append, List.cons_append, List.foldl_cons, List.foldl_nil,
    Nat.add_zero]
  omega

theorem blockWord_toNat_at64 (pm : Nat → Byte) (i j : Nat) :
    (blockWord .sha512 pm i j).toNat =
      (pm (i * 128 + 8 * j)).toNat * 2 ^ 56 + (pm (i * 128 + 8 * j + 1)).toNat * 2 ^ 48
      + (pm (i * 128 + 8 * j + 2)).toNat * 2 ^ 40 + (pm (i * 128 + 8 * j + 3)).toNat * 2 ^ 32
      + (pm (i * 128 + 8 * j + 4)).toNat * 2 ^ 24 + (pm (i * 128 + 8 * j + 5)).toNat * 2 ^ 16
      + (pm (i * 128 + 8 * j + 6)).toNat * 2 ^ 8 + (pm (i * 128 + 8 * j + 7)).toNat := by
  have hword : blockWord .sha512 pm i j = beWord pm (i * 128 + 8 * j) 8 := by
    rw [Nat.mul_comm 8 j]
    rfl
  rw [hword, beWord_toNat pm _ (by decide)]
  simp only [List.range_succ, List.range_zero, List.nil_append, List.cons_append, List.foldl_cons, List.foldl_nil,
    Nat.add_zero]
  omega

/-! ## The block load -/

theorem ldblkOp_of_fits (a : Alg) {s : State} (h : s.msgLen.toNat ≤ s.cfg.msgCap) :
    ldblkOp a s = .next { s with w := loadBlock a (s.pmRead a) s.bi s.w, phase := .exp, t := 16#7 } := by
  rcases ldblkOp_cases a s with ⟨_, ho, -⟩ | ⟨-, e⟩
  · simp [outsideAddress_none_of_fits h] at ho
  · exact e

theorem loadBlock_get (a : Alg) (pm : Nat → Byte) (i : Nat) (w : Vector Word 80) (j : Fin 80) :
    (loadBlock a pm i w)[j] = if j.val < 16 then blockWord a pm i j else w[j] := by
  simp [loadBlock]

end Sys2Proof.Machine

namespace Sys2Proof

open Machine

/-- Settles O26: the exact division is `blockCount_mul_bs`, the minimality `padLen_le_of_fills`. -/
theorem paddingLengthIsMinimal : Obligations.PaddingLengthIsMinimal := fun a l =>
  ⟨padded_length_mod_bs a l, fun _ => padLen_le_of_fills a l, rfl, fun h => padLen_at64 h l,
    fun h => h ▸ padLen_at128 l, rfl, blockCount_mul_bs a l⟩

/-- Settles O27: the edge cases are read off the closed forms at the two block sizes. -/
theorem paddingEdgeCases : Obligations.PaddingEdgeCases := by
  intro a l
  obtain ⟨hpos, -⟩ := blockCount_bounds a l
  refine ⟨Nat.le_sub_one_of_lt (padLen_lt a l), padLen_eq_zero_iff a l, fun h => ?_, fun h => ?_, hpos,
    blockCount_eq a l, blockCount_eq_one_iff a l, fun _ hlenw hl => blockCount_lt_two_pow a hlenw hl⟩
  · rw [padLen_at64 h]
    omega
  · rw [h, padLen_at128]
    omega

/-- Settles O24: `PADP` has the bits for `p`. -/
theorem padFollowsItsRuleAt64 : Obligations.PadFollowsItsRuleAt64 := by
  refine ⟨rfl, rfl, fun s i hi => ?_⟩
  obtain ⟨a, ha, hexec⟩ : ∃ a : Alg, (a = .sha1 ∨ a = .sha256) ∧ exec i s = .next (padOp a s) := by
    rcases hi with rfl | rfl
    · exact ⟨.sha1, .inl rfl, rfl⟩
    · exact ⟨.sha256, .inr rfl, rfl⟩
  have hpadp : (padOp a s).padp.toNat = padLen a s.msgLen.toNat := padLen_toNat a _
  refine ⟨padOp a s, hexec, rfl, ?_, ?_⟩
  · rw [hpadp, padLen_at64 ha]
  · rw [hpadp]
    exact blockCount_at64 ha _

/-- Settles O25, as O24. -/
theorem padFollowsItsRuleAt128 : Obligations.PadFollowsItsRuleAt128 := by
  refine ⟨rfl, fun s => ?_⟩
  have hpadp : (padOp .sha512 s).padp.toNat = padLen .sha512 s.msgLen.toNat := padLen_toNat _ _
  refine ⟨padOp .sha512 s, rfl, rfl, hpadp, ?_⟩
  rw [hpadp]
  exact blockCount_at128 _

/-- Settles O30: the load completes, and `blockWord_toNat_at32` gives its words. -/
theorem blockLoadAt32 : Obligations.BlockLoadAt32 := by
  refine ⟨rfl, rfl, fun s i a hi hfits => ?_⟩
  obtain ⟨hexec, ha⟩ : exec i s = ldblkOp a s ∧ (a = .sha1 ∨ a = .sha256) := by
    rcases hi with hi | hi <;> cases hi
    · exact ⟨rfl, .inl rfl⟩
    · exact ⟨rfl, .inr rfl⟩
  refine ⟨_, hexec.trans (ldblkOp_of_fits a hfits), rfl, fun j => ⟨fun h => ?_, fun h => ?_⟩⟩
  · rw [loadBlock_get, if_pos h, blockWord_toNat_at32 ha]
  · rw [loadBlock_get, if_neg (Nat.not_lt.2 h)]

/-- Settles O31, with `blockWord_toNat_at64`. -/
theorem blockLoadAt64 : Obligations.BlockLoadAt64 := by
  refine ⟨rfl, fun s hfits => ?_⟩
  refine ⟨_, ldblkOp_of_fits .sha512 hfits, rfl, fun j => ⟨fun h => ?_, fun h => ?_⟩⟩
  · rw [loadBlock_get, if_pos h, blockWord_toNat_at64]
  · rw [loadBlock_get, if_neg (Nat.not_lt.2 h)]

end Sys2Proof
end

section
/-! The schedule and the rounds as functions: each word of `schedule` is the block's or the expansion of the words
before it, and a round reads only the words of its algorithm. -/

namespace Sys2Proof.Machine

/-! ## The schedule -/

/-- A schedule word is a function of the words before it (41_schedule.md R124 to R126). -/
theorem expandWord_congr {a : Alg} {w w' : Vector Word 80} {t : Nat} (ht : 16 ≤ t)
    (h : ∀ k, k < t → wAt w k = wAt w' k) : expandWord a w t = expandWord a w' t := by
  have hback : ∀ d, 1 ≤ d → wAt w (t - d) = wAt w' (t - d) := fun d hd => h _ (by omega)
  cases a <;> simp (disch := decide) only [expandWord, expandSha1, expandSha256, expandSha512, hback]

section
variable (a : Alg) (pm : Nat → Byte) (i : Nat)

/-- A word of the schedule is not written again. -/
theorem wAt_expanded_of_le {n n' k : Nat} (h : n ≤ n') (hk : k < 16 + n) :
    wAt (expanded a pm i n') k = wAt (expanded a pm i n) k := by
  induction n', h using Nat.le_induction with
  | base => rfl
  | succ m hm ih => exact (wAt_set_other _ _ (by omega)).trans ih

theorem wAt_schedule_low {k : Nat} (h : k < 16) : wAt (schedule a pm i) k = blockWord a pm i k := by
  rw [schedule, wAt_expanded_of_le a pm i (Nat.zero_le _) h]
  exact wAt_loadBlock_low a pm i _ h

theorem wAt_schedule_high {k : Nat} (h : 16 ≤ k) (hk : k < a.rounds) :
    wAt (schedule a pm i) k = expandWord a (schedule a pm i) k := by
  obtain ⟨n, rfl⟩ := Nat.exists_eq_add_of_le h
  obtain ⟨-, hrounds⟩ := a.rounds_bounds
  rw [schedule, wAt_expanded_of_le a pm i (show n + 1 ≤ a.rounds - 16 by omega) (by omega)]
  refine (wAt_set_same _ _ (by omega)).trans (expandWord_congr h fun j hj => ?_)
  exact (wAt_expanded_of_le a pm i (by omega) hj).symm

end

/-! ## The rounds -/

/-- Two states of the working registers that agree in the words of the algorithm. -/
def AgreeOn (a : Alg) (v v' : Vector Word 8) : Prop := ∀ i : Fin 8, i.val < a.words → v[i] = v'[i]

theorem AgreeOn.eq_of_words {a : Alg} {v v' : Vector Word 8} (h : AgreeOn a v v') (ha : a.words = 8) : v = v' :=
  Vector.ext fun i hi => h ⟨i, hi⟩ (by rw [ha]; exact hi)

/-- A round reads and writes the words of its algorithm alone (42_compress.md R150 to R152). -/
theorem AgreeOn.round {a : Alg} {v v' : Vector Word 8} (h : AgreeOn a v v') (t : Nat) (x : Word) :
    AgreeOn a (roundOf a t v x) (roundOf a t v' x) := by
  cases a with
  | sha256 => rw [h.eq_of_words rfl]; exact fun _ _ => rfl
  | sha512 => rw [h.eq_of_words rfl]; exact fun _ _ => rfl
  | sha1 =>
    have h0 : v[0] = v'[0] := h 0 (by decide)
    have h1 : v[1] = v'[1] := h 1 (by decide)
    have h2 : v[2] = v'[2] := h 2 (by decide)
    have h3 : v[3] = v'[3] := h 3 (by decide)
    have h4 : v[4] = v'[4] := h 4 (by decide)
    intro i hi
    simp only [roundOf, roundSha1, h0, h1, h2, h3, h4]
    have hcases : i = 0 ∨ i = 1 ∨ i = 2 ∨ i = 3 ∨ i = 4 := by
      have : i.val < 5 := hi
      omega
    rcases hcases with rfl | rfl | rfl | rfl | rfl <;> rfl

/-- `ACCUM` adds in the words of its algorithm alone (43_accumulator_driver.md R174 to R176). -/
theorem fold_congr {a : Alg} {v v' : Vector Word 8} (h : AgreeOn a v v') (acc : Vector Word 8) :
    fold a acc v = fold a acc v' := by
  refine Vector.ext fun i hi => ?_
  rw [fold_get, fold_get]
  split
  · next hw => rw [show v[i] = v'[i] from h ⟨i, hi⟩ hw]
  · rfl

/-! ## The words of the accumulator have the algorithm's width -/

theorem narrow_ivWord (a : Alg) {i : Fin 8} (h : i.val < a.words) : narrow a (ivWord a i) = ivWord a i := by
  cases a with
  | sha1 => rw [ivWord, dif_pos (show i.val < 5 from h)]; exact zext64_low32_zext64 _
  | sha256 => exact zext64_low32_zext64 _
  | sha512 => rfl

theorem narrow_addWord (a : Alg) (x y : Word) : narrow a (addWord a x y) = addWord a x y := by
  cases a with
  | sha1 => exact zext64_low32_zext64 _
  | sha256 => exact zext64_low32_zext64 _
  | sha512 => rfl

theorem narrow_chain (a : Alg) (pm : Nat → Byte) (n : Nat) {i : Nat} (hi : i < 8) (h : i < a.words) :
    narrow a (chain a pm n)[i] = (chain a pm n)[i] := by
  cases n with
  | zero => simp only [chain, initialAcc_get]; exact narrow_ivWord a h
  | succ n => simp only [chain, compress, fold_get, if_pos h]; exact narrow_addWord a _ _

/-- `LDV` loads the words of the accumulator whole. -/
theorem loadV_chain (a : Alg) (pm : Nat → Byte) (n : Nat) (v : Vector Word 8) :
    AgreeOn a (loadV a (chain a pm n) v) (chain a pm n) := by
  rintro ⟨i, hi⟩ h
  simp only [Fin.getElem_fin, loadV_get, if_pos h]
  exact narrow_chain a pm n hi h

/-! ## The message -/

/-- The padded message depends on the bytes of the message alone (40_padding.md R110). -/
theorem paddedMessage_congr (a : Alg) {m m' : Nat → Byte} {l : Nat} (h : ∀ j, j < l → m j = m' j) :
    paddedMessage a m l = paddedMessage a m' l := by
  funext j
  rw [paddedMessage, paddedMessage, paddedByte, paddedByte]
  by_cases hj : j < l
  · rw [if_pos hj, if_pos hj, h j hj]
  · rw [if_neg hj, if_neg hj]

theorem digest_congr (a : Alg) {m m' : Nat → Byte} {l : Nat} (h : ∀ j, j < l → m j = m' j) :
    digest a m l = digest a m' l := by
  rw [digest, digest, paddedMessage_congr a h]

end Sys2Proof.Machine
end

section
/-! A run as the digest function (O60): each micro-operation takes a run that `Follows` it to one that does
(`Follows.microResult`) and takes one off the micro-operations left (`Inv.stepsLeft_microResult`), so that a run
ends in DONE with the digest (`hashRun_ends`). -/

namespace Sys2Proof.Machine

/-! ## The micro-operations follow the digest function -/

section
variable {a : Alg} {m : Nat → Byte} {l : Nat} {s t : State} (h : Follows a m l s)
include h

/-- What `PMRead` reads in a run is the padded message. -/
theorem Follows.pmRead_eq (hs : s.phase.padded = true) : s.pmRead a = paddedMessage a m l := by
  obtain ⟨hlen, -, hbytes⟩ := h.message (Phase.busy_of_padded hs)
  obtain ⟨hpadp, hnblk⟩ := h.padding hs
  rw [pmRead_eq_paddedMessage (hlen ▸ hpadp) (hlen ▸ hnblk), hlen, paddedMessage_congr a hbytes]

theorem Follows.padOp (hp : s.phase = .pad) : Follows a m l (padOp a s) := by
  have hmsg := h.message (by rw [hp]; rfl)
  constructor
  case alg => exact h.alg
  case message => exact fun _ => hmsg
  case padding => exact fun _ => hmsg.1 ▸ ⟨padLen_toNat a _, rfl⟩
  case started => exact ⟨nofun, rfl⟩
  all_goals simp [Machine.padOp, Phase.inBlock]

/-- Once the padding is done a move to a position of the block loop, or to DONE, follows the digest function if the
registers that the new phase reads are those of the run as a function; a caller gives the clauses of its own phase. -/
theorem Follows.moveTo (hs : s.phase.padded = true) {p : Phase} {bi : Nat} {i : BitVec 7} {v acc : Vector Word 8}
    {w : Vector Word 80} (hp : p.inBlock = true ∨ p = .done) (hbi : bi < blockCount a l)
    (hacc : (p = .ldblk ∨ p = .exp ∨ p = .ldv ∨ p = .rnd ∨ p = .accum) →
      acc = chain a (paddedMessage a m l) bi := by simp)
    (hexpanding : p = .exp → 16 ≤ i.toNat ∧ i.toNat ≤ a.rounds - 1 ∧
      ∀ k, k < i.toNat → wAt w k = wAt (schedule a (paddedMessage a m l) bi) k := by simp)
    (hexpanded : (p = .ldv ∨ p = .rnd) →
      ∀ k, k < a.rounds → wAt w k = wAt (schedule a (paddedMessage a m l) bi) k := by simp)
    (hround : p = .rnd → i.toNat ≤ a.rounds - 1 ∧
      AgreeOn a v (roundsFrom a (schedule a (paddedMessage a m l) bi) acc i.toNat) := by simp)
    (hrounded : p = .accum →
      AgreeOn a v (roundsFrom a (schedule a (paddedMessage a m l) bi) acc a.rounds) := by simp)
    (hfolded : p = .next → acc = chain a (paddedMessage a m l) (bi + 1) := by simp)
    (hfinished : (p = .fin ∨ p = .done) → acc = digest a m l := by simp) :
    Follows a m l { s with phase := p, bi := bi, t := i, v := v, acc := acc, w := w } where
  alg := h.alg
  message _ := h.message (Phase.busy_of_padded hs)
  padding _ := h.padding hs
  block _ := hbi
  started := by
    rcases hp with hin | rfl
    · exact ⟨Phase.ne_idle_of_busy (Phase.busy_of_inBlock hin), Phase.legal_of_inBlock hin⟩
    · exact ⟨nofun, rfl⟩
  acc := hacc
  expanding := hexpanding
  expanded := hexpanded
  round := hround
  rounded := hrounded
  folded := hfolded
  finished := hfinished

theorem Follows.initOp (hp : s.phase = .init) : Follows a m l (initOp a s) := by
  obtain ⟨hpos, -⟩ := blockCount_bounds a l
  exact h.moveTo (by rw [hp]; rfl) (.inl rfl) hpos (hacc := fun _ => rfl)

theorem Follows.ldblkOp (hp : s.phase = .ldblk) (ht : ldblkOp a s = .next t) : Follows a m l t := by
  have hin : s.phase.inBlock = true := by rw [hp]; rfl
  have hpad := Phase.padded_of_inBlock hin
  obtain ⟨hrounds, -⟩ := a.rounds_bounds
  have hwords : ∀ k, k < 16 → wAt (loadBlock a (s.pmRead a) s.bi s.w) k =
      wAt (schedule a (paddedMessage a m l) s.bi) k := fun k hk => by
    rw [h.pmRead_eq hpad, wAt_loadBlock_low a _ _ _ hk, wAt_schedule_low a _ _ hk]
  rcases ldblkOp_cases a s with ⟨_, -, e⟩ | ⟨-, e⟩ <;> rw [e] at ht <;> cases ht
  exact h.moveTo hpad (.inl rfl) (h.block hin) (hacc := fun _ => h.acc (.inl hp))
    (hexpanding := fun _ => ⟨le_rfl, Nat.le_sub_one_of_lt (Nat.lt_of_lt_of_le (by decide) hrounds), hwords⟩)

/-- `EXP` adds the next word of the schedule to those that are there. -/
theorem Follows.wAt_expandWord (hp : s.phase = .exp) {k : Nat} (hk : k < s.t.toNat + 1) :
    wAt (s.w.setIfInBounds s.t.toNat (expandWord a s.w s.t.toNat)) k =
      wAt (schedule a (paddedMessage a m l) s.bi) k := by
  obtain ⟨hlo, hhi, hwords⟩ := h.expanding hp
  obtain ⟨-, hrounds⟩ := a.rounds_bounds
  by_cases hk' : k = s.t.toNat
  · rw [hk', wAt_set_same _ _ (by omega), wAt_schedule_high a _ _ hlo (by omega), expandWord_congr hlo hwords]
  · rw [wAt_set_other _ _ (Ne.symm hk'), hwords k (by omega)]

theorem Follows.expOp (hp : s.phase = .exp) : Follows a m l (expOp a s) := by
  have hin : s.phase.inBlock = true := by rw [hp]; rfl
  have hpad := Phase.padded_of_inBlock hin
  have hacc := h.acc (.inr (.inl hp))
  obtain ⟨hlo, hhi, -⟩ := h.expanding hp
  obtain ⟨-, hrounds⟩ := a.rounds_bounds
  rcases expOp_cases a s with ⟨hout, -⟩ | ⟨-, hlast, e⟩ | ⟨-, hlt, e⟩
  · exact absurd ⟨hlo, hhi⟩ hout
  · rw [e]
    exact h.moveTo hpad (.inl rfl) (h.block hin) (hacc := fun _ => hacc)
      (hexpanded := fun _ k hk => h.wAt_expandWord hp (by omega))
  · rw [e]
    have hsucc := index_succ hlt (by omega)
    exact h.moveTo hpad (.inl rfl) (h.block hin) (hacc := fun _ => hacc)
      (hexpanding := fun _ => ⟨by omega, by omega, fun k hk => h.wAt_expandWord hp (by omega)⟩)

theorem Follows.ldvOp (hp : s.phase = .ldv) : Follows a m l (ldvOp a s) := by
  have hin : s.phase.inBlock = true := by rw [hp]; rfl
  have hacc := h.acc (.inr (.inr (.inl hp)))
  have hv : AgreeOn a (loadV a s.acc s.v) s.acc := by
    rw [hacc]
    exact loadV_chain a _ _ _
  exact h.moveTo (Phase.padded_of_inBlock hin) (.inl rfl) (h.block hin) (hacc := fun _ => hacc)
    (hexpanded := fun _ => h.expanded (.inl hp)) (hround := fun _ => ⟨Nat.zero_le _, hv⟩)

/-- `RND` makes one round more. -/
theorem Follows.round_agrees (hp : s.phase = .rnd) : AgreeOn a (roundOf a s.t.toNat s.v (wAt s.w s.t.toNat))
    (roundsFrom a (schedule a (paddedMessage a m l) s.bi) s.acc (s.t.toNat + 1)) := by
  obtain ⟨hhi, hv⟩ := h.round hp
  obtain ⟨hrounds, -⟩ := a.rounds_bounds
  rw [h.expanded (.inr hp) _ (by omega)]
  exact AgreeOn.round hv _ _

theorem Follows.rndOp (hp : s.phase = .rnd) : Follows a m l (rndOp a s) := by
  have hin : s.phase.inBlock = true := by rw [hp]; rfl
  have hpad := Phase.padded_of_inBlock hin
  have hacc := h.acc (.inr (.inr (.inr (.inl hp))))
  have hround := h.round_agrees hp
  obtain ⟨hhi, -⟩ := h.round hp
  obtain ⟨hlo, hrounds⟩ := a.rounds_bounds
  rcases rndOp_cases a s with ⟨hout, -⟩ | ⟨hlast, e⟩ | ⟨hlt, e⟩
  · omega
  · rw [e]
    rw [show s.t.toNat + 1 = a.rounds by omega] at hround
    exact h.moveTo hpad (.inl rfl) (h.block hin) (hacc := fun _ => hacc) (hrounded := fun _ => hround)
  · rw [e]
    have hsucc := index_succ hlt (by omega)
    exact h.moveTo hpad (.inl rfl) (h.block hin) (hacc := fun _ => hacc)
      (hexpanded := fun _ => h.expanded (.inr hp)) (hround := fun _ => ⟨by omega, hsucc ▸ hround⟩)

theorem Follows.accumOp (hp : s.phase = .accum) : Follows a m l (accumOp a s) := by
  have hin : s.phase.inBlock = true := by rw [hp]; rfl
  have hfold : fold a s.acc s.v = chain a (paddedMessage a m l) (s.bi + 1) := by
    rw [fold_congr (h.rounded hp), h.acc (.inr (.inr (.inr (.inr hp))))]
    rfl
  exact h.moveTo (Phase.padded_of_inBlock hin) (.inl rfl) (h.block hin) (hfolded := fun _ => hfold)

theorem Follows.nextOp (hp : s.phase = .next) : Follows a m l (nextOp s) := by
  have hin : s.phase.inBlock = true := by rw [hp]; rfl
  have hpad := Phase.padded_of_inBlock hin
  have hbi := h.block hin
  have hacc := h.folded hp
  obtain ⟨-, hnblk⟩ := h.padding hpad
  rcases nextOp_cases s with ⟨hlast, e⟩ | ⟨hne, e⟩ <;> rw [e]
  · rw [hlast, hnblk] at hacc
    exact h.moveTo hpad (.inl rfl) hbi (hfinished := fun _ => hacc)
  · exact h.moveTo hpad (.inl rfl) (by omega) (hacc := fun _ => hacc)

/-- Every micro-operation keeps the run on the digest function (43_accumulator_driver.md R180, R181). -/
theorem Follows.microResult (hm : microResult a s = .next t) : Follows a m l t := by
  simp only [Machine.microResult] at hm
  cases hp : s.phase <;> simp only [hp] at hm
  case ldblk => exact h.ldblkOp hp hm
  all_goals cases hm
  case pad => exact h.padOp hp
  case init => exact h.initOp hp
  case exp => exact h.expOp hp
  case ldv => exact h.ldvOp hp
  case rnd => exact h.rndOp hp
  case accum => exact h.accumOp hp
  case next => exact h.nextOp hp
  case fin =>
    have hin : s.phase.inBlock = true := by rw [hp]; rfl
    exact h.moveTo (Phase.padded_of_inBlock hin) (.inr rfl) (h.block hin)
      (hfinished := fun _ => h.finished (.inl hp))
  all_goals exact h

end

/-! ## The micro-operations left -/

theorem stepsLeft_pos {s : State} (a : Alg) (hb : s.phase.busy = true) : 0 < stepsLeft a s := by
  rw [stepsLeft]
  cases hp : s.phase <;> simp only [hp, Phase.busy, Bool.false_eq_true] at hb <;> simp [runSteps]

theorem stepsLeft_nextOp (a : Alg) {s : State} (hp : s.phase = .next) : stepsLeft a (nextOp s) + 1 = stepsLeft a s := by
  rcases nextOp_cases s with ⟨hlast, e⟩ | ⟨-, e⟩
  · simp only [e, stepsLeft, hp, ← hlast, Nat.add_sub_cancel_left, Nat.sub_self, Nat.zero_mul]
  · simp only [e, stepsLeft, hp, ← Nat.sub_sub]
    omega

section
variable {a : Alg} {s t : State} (h : Inv s)
include h

/-- No micro-operation stops: the message is one the memory can hold. -/
theorem microResult_completes (a : Alg) (hb : s.phase.busy = true) : ∃ t, microResult a s = .next t := by
  rw [microResult]
  cases hp : s.phase
  case ldblk => exact ⟨_, ldblkOp_of_fits a (h.fits hb)⟩
  all_goals exact ⟨_, rfl⟩

/-- The blocks left are the one being processed and those after it. -/
theorem blocksLeft_steps (a : Alg) (hin : s.phase.inBlock = true) :
    (s.nblk - s.bi) * blockSteps a = (s.nblk - s.bi - 1) * blockSteps a + (2 * a.rounds - 12) := by
  have hbi := h.block hin
  rw [← blockSteps, ← Nat.succ_mul, Nat.succ_eq_add_one, Nat.sub_add_cancel (by omega)]

variable (ha : s.alg = a.code)
include ha

theorem stepsLeft_expOp (hp : s.phase = .exp) : stepsLeft a (expOp a s) + 1 = stepsLeft a s := by
  have hrange := h.expIndex a (State.algorithm_of_alg ha) hp
  obtain ⟨hlo, hrounds⟩ := a.rounds_bounds
  rcases expOp_cases a s with ⟨hout, -⟩ | ⟨-, hlast, e⟩ | ⟨-, hlt, e⟩
  · exact absurd hrange hout
  · simp only [e, stepsLeft, hp]
    omega
  · simp only [e, stepsLeft, hp, index_succ hlt (show _ ≤ 127 by omega)]
    omega

theorem stepsLeft_rndOp (hp : s.phase = .rnd) : stepsLeft a (rndOp a s) + 1 = stepsLeft a s := by
  have hrange := h.rndIndex a (State.algorithm_of_alg ha) hp
  obtain ⟨hlo, hrounds⟩ := a.rounds_bounds
  rcases rndOp_cases a s with ⟨hout, -⟩ | ⟨hlast, e⟩ | ⟨hlt, e⟩
  · omega
  · simp only [e, stepsLeft, hp]
    omega
  · simp only [e, stepsLeft, hp, index_succ hlt (show _ ≤ 127 by omega)]
    omega

/-- Every micro-operation takes one off those left (43_accumulator_driver.md R182). -/
theorem stepsLeft_microResult (hb : s.phase.busy = true) (hm : microResult a s = .next t) :
    stepsLeft a t + 1 = stepsLeft a s := by
  obtain ⟨hrounds, -⟩ := a.rounds_bounds
  rw [microResult] at hm
  cases hp : s.phase <;> simp only [hp] at hm
  case ldblk =>
    have hsteps := blocksLeft_steps h a (by rw [hp]; rfl)
    rw [ldblkOp_of_fits a (h.fits hb)] at hm
    cases hm
    simp only [stepsLeft, hp, hsteps, BitVec.reduceToNat]
    omega
  all_goals cases hm
  case pad => simp only [stepsLeft, hp, padOp, runSteps]; omega
  case init => simp only [stepsLeft, hp, initOp, State.goto, Nat.sub_zero]; omega
  case exp => exact stepsLeft_expOp h ha hp
  case ldv => simp only [stepsLeft, hp, ldvOp, State.goto, BitVec.reduceToNat]; omega
  case rnd => exact stepsLeft_rndOp h ha hp
  case accum => simp only [stepsLeft, hp, accumOp, State.goto]; omega
  case next => exact stepsLeft_nextOp a hp
  case fin => simp only [stepsLeft, hp, State.goto]
  all_goals simp [hp, Phase.busy] at hb

end

/-! ## The run -/

/-- With no turn listed a busy core performs its micro-operation (70_reset_and_hazards.md R242). -/
theorem step_of_busy {a : Alg} {s : State} (ht : s.turns = []) (hb : s.phase.busy = true) (ha : s.alg = a.code) :
    step s = microResult a s := by
  obtain ⟨i, hd, hx⟩ := micro_run hb ha
  rw [(stepRunsMicroOperation s i hd).1 ht, hx]

/-- A run that follows the digest function is under way or has ended. -/
theorem Follows.busy_or_done {a : Alg} {m : Nat → Byte} {l : Nat} {s : State} (h : Follows a m l s) :
    s.phase.busy = true ∨ s.phase = .done := by
  obtain ⟨hidle, hlegal⟩ := h.started
  cases hp : s.phase <;> simp [hp, Phase.busy, Phase.legal] at hidle hlegal ⊢

/-- In a run that follows the digest function no fault is recorded. -/
theorem Follows.err_eq {a : Alg} {m : Nat → Byte} {l : Nat} {s t : State} (h : Follows a m l t)
    (hm : Machine.microResult a s = .next t) : t.err = s.err := by
  rcases (microResult_frame hm).err with herr | ⟨hfault, -⟩
  · exact herr
  · have hlegal := h.started.2
    simp [hfault, Phase.legal] at hlegal

/-- The end `t` of a run, seen from a state `s` of it: DONE with the digest of the message, which is kept, and `ERR`
as the run found it. -/
structure EndsRun (a : Alg) (m : Nat → Byte) (l : Nat) (s t : State) : Prop where
  phase : t.phase = .done
  alg : t.alg = a.code
  acc : t.acc = digest a m l
  err : t.err = s.err
  msg : t.msg = s.msg
  msgLen : t.msgLen = s.msgLen

/-- A run goes on to its end in as many steps as it has micro-operations left. -/
theorem run_stepsLeft {a : Alg} {m : Nat → Byte} {l : Nat} {s : State} (h : Inv s) (hf : Follows a m l s)
    (ht : s.turns = []) :
    ∃ t : State, Host.Core.run Sys2Proof.core (stepsLeft a s) s = .next t ∧ EndsRun a m l s t := by
  induction hn : stepsLeft a s generalizing s with
  | zero =>
    have hdone : s.phase = .done := hf.busy_or_done.resolve_left fun hb => (stepsLeft_pos a hb).ne' hn
    exact ⟨s, rfl, hdone, hf.alg, hf.finished (.inr hdone), rfl, rfl, rfl⟩
  | succ n ih =>
    have hb : s.phase.busy = true := hf.busy_or_done.resolve_right fun hdone => by simp [stepsLeft, hdone] at hn
    obtain ⟨u, hu⟩ := microResult_completes h a hb
    have hleft := stepsLeft_microResult h hf.alg hb hu
    have hfu := hf.microResult hu
    obtain ⟨hmsg, hlen, -, hturns, -⟩ := microResult_keeps hu
    obtain ⟨t, hrun, hend⟩ := ih (h.microResult hf.alg hu) hfu (by rw [hturns, ht]) (by omega)
    exact ⟨t, by rw [run_succ_of_next ((step_of_busy ht hb hf.alg).trans hu), hrun],
      { hend with
        err := hend.err.trans (hfu.err_eq hu)
        msg := hend.msg.trans hmsg
        msgLen := hend.msgLen.trans hlen }⟩

/-- The write of `HASH.alg`'s word to `CMD` performs the command (44_host_interface.md R195). -/
theorem exec_wrCmd_hash (a : Alg) {s : State} (hf : s.phase.fatal = false) :
    exec (.wrCmd (BitVec.ofNat 64 (0x10 + a.code.toNat))) s = .next (hashOp a s) := by
  cases a <;> simp only [exec, execWrCmd, hf] <;> rfl

theorem decodeTxn_wrCmd (d : Word) : decodeTxn ⟨0x10#6, 0, d⟩ = .instr (.wrCmd d) :=
  encodedInstructionDecodesToItself (.wrCmd d) rfl

/-- A `HASH.alg` written to `CMD` starts a run in a quiescent core. -/
theorem step_hash {a : Alg} {s : State} (hq : s.phase = .idle ∨ s.phase = .done)
    (hl : s.msgLen.toNat ≤ s.cfg.msgCap)
    (ht : s.turns = [.host ⟨0x10#6, 0, BitVec.ofNat 64 (0x10 + a.code.toNat)⟩]) :
    step s = .next (s.popTurn.accept a) := by
  rw [step_host ht (decodeTxn_wrCmd _)]
  exact (exec_wrCmd_hash a (s := s.popTurn) (Phase.not_fatal_of_quiescent hq)).trans
    (congrArg _ (hashOp_of_quiescent a (s := s.popTurn) hq hl))

/-- An accepted `HASH.alg` ends after the `CMD` write and the micro-operations of R182. -/
theorem hashRun_ends {a : Alg} {s : State} (h : Inv s) (hq : s.phase = .idle ∨ s.phase = .done)
    (hl : s.msgLen.toNat ≤ s.cfg.msgCap)
    (ht : s.turns = [.host ⟨0x10#6, 0, BitVec.ofNat 64 (0x10 + a.code.toNat)⟩]) :
    ∃ t : State, Host.Core.run Sys2Proof.core (1 + (2 + blockCount a s.msgLen.toNat * (2 * a.rounds - 12) + 1)) s =
      .next t ∧ EndsRun a s.msgByte s.msgLen.toNat (s.popTurn.accept a) t := by
  obtain ⟨t, hrun, hend⟩ := run_stepsLeft (h.popTurn.accept hl a) (follows_accept a (s := s.popTurn) hl)
    (show s.turns.tail = [] by rw [ht]; rfl)
  refine ⟨t, ?_, hend⟩
  rw [Nat.add_comm 1, run_succ_of_next (step_hash hq hl ht)]
  exact hrun

section
variable {a : Alg} {m : Nat → Byte} {l : Nat} {s t : State} (h : EndsRun a m l s t)
include h

/-- After a run the host reads the digest. -/
theorem EndsRun.digestReg_eq (i : Fin 8) : t.digestReg i = narrow a (digest a m l)[i] := by
  rw [State.digestReg_of_done i h.phase, State.accWord_of_alg i h.alg, h.acc]

theorem EndsRun.status_eq : t.status = 0#52 ++ s.err ++ 0#2 ++ a.code ++ 0#1 ++ 0#1 ++ 1#1 ++ 0#1 := by
  rw [State.status, h.err, h.alg, h.phase]
  rfl

end

end Sys2Proof.Machine

namespace Sys2Proof

open Machine

/-- Settles O60: both runs end with the digest of their message, and the digest of a message depends on its bytes
alone (`digest_congr`). -/
theorem digestOwesNothingToEarlierRuns : Obligations.DigestOwesNothingToEarlierRuns := by
  intro s1 s2 a h1 h2 hq1 hq2 hlen hl1 hl2 hbytes ht1 ht2
  obtain ⟨t1, hrun1, hend1⟩ := hashRun_ends h1 hq1 hl1 ht1
  obtain ⟨t2, hrun2, hend2⟩ := hashRun_ends h2 hq2 hl2 (ht2.trans ht1)
  rw [← hlen] at hrun2 hend2
  refine ⟨_, t1, t2, rfl, hrun1, hrun2, hend1.phase, hend2.phase, fun _ i => ?_, ?_⟩
  · rw [hend1.digestReg_eq, hend2.digestReg_eq, digest_congr a hbytes]
  · rw [hend1.status_eq, hend2.status_eq]
    rfl

end Sys2Proof
end

section
/-! The schedule expander against its rules (O33 to O35): what `EXP` does inside its index range and outside it, said
once for the three algorithms, and the word it writes, with the library's rotations. -/

namespace Sys2Proof.Machine

/-! ## The operation inside its range and outside it -/

/-- Outside its range `EXP` takes the fault of R212 (41_schedule.md R128). -/
theorem expOp_outside (a : Alg) {s : State} (h : ¬(16 ≤ s.t.toNat ∧ s.t.toNat ≤ a.rounds - 1)) :
    expOp a s = s.raiseFault := by
  rcases expOp_cases a s with ⟨-, e⟩ | ⟨hlo, hlast, -⟩ | ⟨hlo, hlt, -⟩
  · exact e
  · exact absurd ⟨hlo, hlast.le⟩ h
  · exact absurd ⟨hlo, hlt.le⟩ h

/-- Inside its range `EXP` writes `W[T]` and moves on, to the next index or to LDV (41_schedule.md R124 to R126). -/
theorem expOp_inside (a : Alg) {s : State} (h : 16 ≤ s.t.toNat ∧ s.t.toNat ≤ a.rounds - 1) :
    expOp a s = { s with w := (expOp a s).w, phase := (expOp a s).phase, t := (expOp a s).t } ∧
    wAt (expOp a s).w s.t.toNat = expandWord a s.w s.t.toNat ∧
    (∀ k, k ≠ s.t.toNat → wAt (expOp a s).w k = wAt s.w k) ∧
    (s.t.toNat = a.rounds - 1 → (expOp a s).phase = .ldv ∧ (expOp a s).t = s.t) ∧
    (s.t.toNat ≠ a.rounds - 1 → (expOp a s).phase = .exp ∧ (expOp a s).t.toNat = s.t.toNat + 1) := by
  obtain ⟨-, hrounds⟩ := a.rounds_bounds
  have hword := wAt_set_same s.w (expandWord a s.w s.t.toNat) (show s.t.toNat < 80 by omega)
  have hother : ∀ k, k ≠ s.t.toNat → wAt (s.w.setIfInBounds s.t.toNat (expandWord a s.w s.t.toNat)) k = wAt s.w k :=
    fun k hk => wAt_set_other s.w _ hk.symm
  rcases expOp_cases a s with ⟨hout, -⟩ | ⟨-, hlast, e⟩ | ⟨-, hlt, e⟩
  · exact absurd h hout
  · rw [e]
    exact ⟨rfl, hword, hother, fun _ => ⟨rfl, rfl⟩, fun hne => absurd hlast hne⟩
  · rw [e]
    exact ⟨rfl, hword, hother, fun hlast => absurd hlast hlt.ne, fun _ => ⟨rfl, index_succ hlt (by omega)⟩⟩

/-! ## The sigmas with the library's rotations -/

theorem ssig0Sha256_eq (x : BitVec 32) : ssig0Sha256 x = x.rotateRight 7 ^^^ x.rotateRight 18 ^^^ x >>> 3 := by
  rw [ssig0Sha256, rotr_eq_rotateRight x (by decide), rotr_eq_rotateRight x (by decide)]

theorem ssig1Sha256_eq (x : BitVec 32) : ssig1Sha256 x = x.rotateRight 17 ^^^ x.rotateRight 19 ^^^ x >>> 10 := by
  rw [ssig1Sha256, rotr_eq_rotateRight x (by decide), rotr_eq_rotateRight x (by decide)]

theorem ssig0Sha512_eq (x : BitVec 64) : ssig0Sha512 x = x.rotateRight 1 ^^^ x.rotateRight 8 ^^^ x >>> 7 := by
  rw [ssig0Sha512, rotr_eq_rotateRight x (by decide), rotr_eq_rotateRight x (by decide)]

theorem ssig1Sha512_eq (x : BitVec 64) : ssig1Sha512 x = x.rotateRight 19 ^^^ x.rotateRight 61 ^^^ x >>> 6 := by
  rw [ssig1Sha512, rotr_eq_rotateRight x (by decide), rotr_eq_rotateRight x (by decide)]

end Sys2Proof.Machine

namespace Sys2Proof

open Machine

/-- Settles O33: `expOp_inside` and `expOp_outside` at SHA1; the word's rotation is the library's. -/
theorem expandSha1FollowsItsRule : Obligations.ExpandSha1FollowsItsRule := by
  refine ⟨rfl, fun s => ⟨fun h => ?_, fun h => congrArg _ (expOp_outside .sha1 h)⟩⟩
  obtain ⟨hframe, hword, hrest⟩ := expOp_inside .sha1 h
  refine ⟨_, rfl, hframe, ?_, hrest⟩
  rw [hword, expandWord, expandSha1, rotl_eq_rotateLeft _ (by decide) (by decide)]
  rfl

/-- Settles O34, as O33, with the sigmas of R121 and R122. -/
theorem expandSha256FollowsItsRule : Obligations.ExpandSha256FollowsItsRule := by
  refine ⟨rfl, fun s => ⟨fun h => ?_, fun h => congrArg _ (expOp_outside .sha256 h)⟩⟩
  obtain ⟨hframe, hword, hrest⟩ := expOp_inside .sha256 h
  refine ⟨_, rfl, hframe, ?_, hrest⟩
  rintro _ _ _ _ rfl rfl rfl rfl
  rw [hword, expandWord, expandSha256, ssig1Sha256_eq, ssig0Sha256_eq]
  rfl

/-- Settles O35, as O33, with the sigmas of R123 and R127. -/
theorem expandSha512FollowsItsRule : Obligations.ExpandSha512FollowsItsRule := by
  refine ⟨rfl, fun s => ⟨fun h => ?_, fun h => congrArg _ (expOp_outside .sha512 h)⟩⟩
  obtain ⟨hframe, hword, hrest⟩ := expOp_inside .sha512 h
  refine ⟨_, rfl, hframe, ?_, hrest⟩
  rintro _ _ rfl rfl
  rw [hword, expandWord, expandSha512, ssig1Sha512_eq, ssig0Sha512_eq]

end Sys2Proof
end

section
/-! The Boolean functions, bit by bit and in the source's two spellings (O36). Each function is read at one bit, where
it is a truth table of three Booleans. -/

namespace Sys2Proof.Machine

/-! ## One bit of each function -/

/-- `Ch` chooses (42_compress.md R143). Past the width every bit is 0, also where the complement is taken. -/
theorem getLsbD_ch {w : Nat} (x y z : BitVec w) (k : Nat) :
    (ch x y z).getLsbD k = if x.getLsbD k then y.getLsbD k else z.getLsbD k := by
  by_cases hk : k < w
  · simp only [ch, BitVec.getLsbD_xor, BitVec.getLsbD_and, BitVec.getLsbD_not, hk, decide_true, Bool.true_and]
    cases x.getLsbD k <;> simp
  · simp [BitVec.getLsbD_of_ge, Nat.le_of_not_lt hk]

/-- `Maj` is the majority (42_compress.md R144). -/
theorem getLsbD_maj {w : Nat} (x y z : BitVec w) (k : Nat) :
    (maj x y z).getLsbD k = Bool.atLeastTwo (x.getLsbD k) (y.getLsbD k) (z.getLsbD k) := by
  simp only [maj, BitVec.getLsbD_xor, BitVec.getLsbD_and]
  cases x.getLsbD k <;> cases y.getLsbD k <;> simp [Bool.atLeastTwo]

/-- `Parity` is the exclusive or of the three bits (42_compress.md R145). -/
theorem getLsbD_parity {w : Nat} (x y z : BitVec w) (k : Nat) :
    (parity x y z).getLsbD k = (x.getLsbD k ^^ y.getLsbD k ^^ z.getLsbD k) := by
  simp [parity]

theorem atLeastTwo_iff_count (x y z : Bool) :
    Bool.atLeastTwo x y z = true ↔ 2 ≤ x.toNat + y.toNat + z.toNat := by
  revert x y z
  decide

theorem xor_iff_count_odd (x y z : Bool) :
    (x ^^ y ^^ z) = true ↔ (x.toNat + y.toNat + z.toNat) % 2 = 1 := by
  revert x y z
  decide

/-! ## The spelling with OR -/

/-- The two products of `Ch` never meet, so OR and XOR join them alike (42_compress.md R155). -/
theorem ch_eq_or {w : Nat} (x y z : BitVec w) : ch x y z = (x &&& y) ||| (~~~x &&& z) := by
  refine BitVec.eq_of_getLsbD_eq fun k hk => ?_
  simp only [getLsbD_ch, BitVec.getLsbD_or, BitVec.getLsbD_and, BitVec.getLsbD_not, hk, decide_true, Bool.true_and]
  cases x.getLsbD k <;> simp

/-- Where two of the three products of `Maj` meet so does the third (42_compress.md R155). -/
theorem maj_eq_or {w : Nat} (x y z : BitVec w) : maj x y z = (x &&& y) ||| (x &&& z) ||| (y &&& z) := by
  refine BitVec.eq_of_getLsbD_eq fun k hk => ?_
  rw [getLsbD_maj]
  simp [Bool.atLeastTwo]

/-! ## The four ranges of `f_SHA1` and `K_SHA1` -/

/-- The four ranges of 20 (30_encoding.md R85), each with the bounds it fails; the last has no upper end here. -/
theorem sha1Range_cases (t : Nat) :
    (t ≤ 19 ∧ sha1Range t = 0) ∨ (¬t ≤ 19 ∧ t ≤ 39 ∧ sha1Range t = 1) ∨
      (¬t ≤ 19 ∧ ¬t ≤ 39 ∧ t ≤ 59 ∧ sha1Range t = 2) ∨
      (¬t ≤ 19 ∧ ¬t ≤ 39 ∧ ¬t ≤ 59 ∧ ∃ n, sha1Range t = n + 3) := by
  simp only [sha1Range]
  by_cases hlast : t ≤ 59
  · omega
  · exact .inr (.inr (.inr ⟨by omega, by omega, hlast, t / 20 - 3, by omega⟩))

/-- `f_SHA1` range by range (42_compress.md R146). -/
theorem fSha1_eq_ite (t : Nat) (b c d : BitVec 32) :
    fSha1 t b c d =
      if t ≤ 19 then (b &&& c) ||| (~~~b &&& d)
      else if t ≤ 39 then b ^^^ c ^^^ d
      else if t ≤ 59 then (b &&& c) ||| (b &&& d) ||| (c &&& d)
      else b ^^^ c ^^^ d := by
  rcases sha1Range_cases t with ⟨h19, hr⟩ | ⟨h19, h39, hr⟩ | ⟨h19, h39, h59, hr⟩ | ⟨h19, h39, h59, n, hr⟩ <;>
    simp [fSha1, *]

/-- `K_SHA1` range by range (10_state.md R41). -/
theorem kSha1_eq_ite (t : Nat) :
    kSha1 t = if t ≤ 19 then 0x5A827999#32 else if t ≤ 39 then 0x6ED9EBA1#32
      else if t ≤ 59 then 0x8F1BBCDC#32 else 0xCA62C1D6#32 := by
  rcases sha1Range_cases t with ⟨h19, hr⟩ | ⟨h19, h39, hr⟩ | ⟨h19, h39, h59, hr⟩ | ⟨h19, h39, h59, n, hr⟩ <;>
    simp [kSha1, *]

end Sys2Proof.Machine

namespace Sys2Proof

open Machine

/-- Settles O36: the bits by the truth tables of three Booleans, the ranges by `fSha1_eq_ite` and the two spellings. -/
theorem booleanFunctionsBitByBit : Obligations.BooleanFunctionsBitByBit := by
  refine ⟨fun w k x y z => ⟨getLsbD_ch x y z k, ?_, ?_⟩, fun t b c d _ => ⟨fun h => ?_, fun h => ?_, fun h => ?_⟩⟩
  · rw [getLsbD_maj, atLeastTwo_iff_count]
  · rw [getLsbD_parity, xor_iff_count_odd]
  · rw [fSha1_eq_ite, if_pos h, ch_eq_or]
  · rw [fSha1_eq_ite, if_neg (by omega)]
    rcases h with ⟨-, h⟩ | h
    · rw [if_pos h, parity]
    · rw [if_neg (by omega), if_neg (by omega), parity]
  · obtain ⟨hlo, hhi⟩ := h
    rw [fSha1_eq_ite, if_neg (by omega), if_neg (by omega), if_pos hhi, maj_eq_or]

end Sys2Proof
end

section
/-! The compression rounds against their rules (O38 to O41): what `RND` does inside its index range and above it, said
once for the three algorithms, and the registers it writes, with the library's rotations. -/

namespace Sys2Proof.Machine

/-! ## The operation inside its range and above it -/

/-- Above its range `RND` takes the fault of R212 (42_compress.md R154). -/
theorem rndOp_outside (a : Alg) {s : State} (h : a.rounds - 1 < s.t.toNat) : rndOp a s = s.raiseFault := by
  rcases rndOp_cases a s with ⟨-, e⟩ | ⟨hlast, -⟩ | ⟨hlt, -⟩
  · exact e
  · exact absurd hlast h.ne'
  · exact absurd hlt h.asymm

/-- Inside its range `RND` makes one round and moves on, to the next index or to ACCUM (42_compress.md R150 to R152). -/
theorem rndOp_inside (a : Alg) {s : State} (h : s.t.toNat ≤ a.rounds - 1) :
    rndOp a s = { s with v := (rndOp a s).v, phase := (rndOp a s).phase, t := (rndOp a s).t } ∧
    (rndOp a s).v = roundOf a s.t.toNat s.v (wAt s.w s.t.toNat) ∧
    (s.t.toNat = a.rounds - 1 → (rndOp a s).phase = .accum ∧ (rndOp a s).t = s.t) ∧
    (s.t.toNat ≠ a.rounds - 1 → (rndOp a s).phase = .rnd ∧ (rndOp a s).t.toNat = s.t.toNat + 1) := by
  obtain ⟨-, hrounds⟩ := a.rounds_bounds
  rcases rndOp_cases a s with ⟨hout, -⟩ | ⟨hlast, e⟩ | ⟨hlt, e⟩
  · exact absurd h hout.not_ge
  · rw [e]
    exact ⟨rfl, rfl, fun _ => ⟨rfl, rfl⟩, fun hne => absurd hlast hne⟩
  · rw [e]
    exact ⟨rfl, rfl, fun hlast => absurd hlast hlt.ne, fun _ => ⟨rfl, index_succ hlt (by omega)⟩⟩

/-! ## The sigmas with the library's rotations -/

theorem bsig0Sha256_eq (x : BitVec 32) : bsig0Sha256 x = x.rotateRight 2 ^^^ x.rotateRight 13 ^^^ x.rotateRight 22 := by
  simp only [bsig0Sha256, rotr_eq_rotateRight x, Nat.reduceLT]

theorem bsig1Sha256_eq (x : BitVec 32) : bsig1Sha256 x = x.rotateRight 6 ^^^ x.rotateRight 11 ^^^ x.rotateRight 25 := by
  simp only [bsig1Sha256, rotr_eq_rotateRight x, Nat.reduceLT]

theorem bsig0Sha512_eq (x : BitVec 64) : bsig0Sha512 x = x.rotateRight 28 ^^^ x.rotateRight 34 ^^^ x.rotateRight 39 := by
  simp only [bsig0Sha512, rotr_eq_rotateRight x, Nat.reduceLT]

theorem bsig1Sha512_eq (x : BitVec 64) : bsig1Sha512 x = x.rotateRight 14 ^^^ x.rotateRight 18 ^^^ x.rotateRight 41 := by
  simp only [bsig1Sha512, rotr_eq_rotateRight x, Nat.reduceLT]

/-! ## The constants the statements write out -/

theorem kSha256_eq_stated (t : Nat) : kSha256 t = statedK256.getD t 0 := rfl

theorem kSha512_eq_stated (t : Nat) : kSha512 t = statedK512.getD t 0 := rfl

/-! ## The load of the working registers -/

/-- A word at a 32-bit algorithm's width is the register modulo 2^32 (10_state.md R22). -/
theorem toNat_narrow_of_width {a : Alg} (h : a.width = 32) (x : Word) : (narrow a x).toNat = x.toNat % 2 ^ 32 := by
  have hlow : (zext64 (low32 x)).toNat = x.toNat % 2 ^ 32 := by
    rw [zext64, low32, BitVec.toNat_setWidth_of_le (by decide), BitVec.toNat_setWidth]
  cases a with
  | sha1 => exact hlow
  | sha256 => exact hlow
  | sha512 => cases h

/-- `LDV` loads the algorithm's words of `V` and writes no other (42_compress.md R140 to R142). -/
theorem ldvOp_v_get (a : Alg) (s : State) (i : Fin 8) :
    (ldvOp a s).v[i] = if i.val < a.words then narrow a s.acc[i] else s.v[i] :=
  loadV_get a s.acc s.v i.isLt

end Sys2Proof.Machine

namespace Sys2Proof

open Machine

/-- Settles O39: `rndOp_inside` and `rndOp_outside` at SHA1; `f` and `K` range by range. -/
theorem roundSha1FollowsItsRule : Obligations.RoundSha1FollowsItsRule := by
  refine ⟨rfl, fun s a b c d e f k wt ha hb hc hd he hwt hf hk =>
    ⟨fun h => ?_, fun h => congrArg _ (rndOp_outside .sha1 h)⟩⟩
  obtain ⟨hframe, hv, hrest⟩ := rndOp_inside .sha1 h
  refine ⟨_, rfl, hframe, ?_, hrest⟩
  rw [← fSha1_eq_ite] at hf
  rw [← kSha1_eq_ite] at hk
  subst hf hk ha hb hc hd he hwt
  simp only [hv, roundOf, roundSha1, rotl_eq_rotateLeft, Nat.reduceLT, low32, zext64]

/-- Settles O40, as O39, with the sigmas of R147 and R148. -/
theorem roundSha256FollowsItsRule : Obligations.RoundSha256FollowsItsRule := by
  refine ⟨rfl, fun s a b c d e f g h t1 t2 wt k ha hb hc hd he hf hg hh hwt hk ht1 ht2 =>
    ⟨fun hin => ?_, fun hout => congrArg _ (rndOp_outside .sha256 hout)⟩⟩
  obtain ⟨hframe, hv, hrest⟩ := rndOp_inside .sha256 hin
  refine ⟨_, rfl, hframe, ?_, hrest⟩
  rw [← kSha256_eq_stated] at hk
  rw [← bsig1Sha256_eq, ← ch] at ht1
  rw [← bsig0Sha256_eq, ← maj] at ht2
  subst ht1 ht2 ha hb hc hd he hf hg hh hwt hk
  rw [hv]
  rfl

/-- Settles O41, as O40 at 64 bits, with the sigmas of R149 and R153. -/
theorem roundSha512FollowsItsRule : Obligations.RoundSha512FollowsItsRule := by
  refine ⟨rfl, fun s a b c d e f g h t1 t2 k hregs hk ht1 ht2 =>
    ⟨fun hin => ?_, fun hout => congrArg _ (rndOp_outside .sha512 hout)⟩⟩
  obtain ⟨hframe, hv, hrest⟩ := rndOp_inside .sha512 hin
  refine ⟨_, rfl, hframe, ?_, hrest⟩
  rw [← kSha512_eq_stated] at hk
  rw [← bsig1Sha512_eq, ← ch] at ht1
  rw [← bsig0Sha512_eq, ← maj] at ht2
  subst ht1 ht2 hk
  rw [hv, ← hregs]
  rfl

/-- Settles O38: each register by `ldvOp_v_get`. -/
theorem workingRegistersLoadFromAccumulator : Obligations.WorkingRegistersLoadFromAccumulator := by
  refine ⟨rfl, rfl, rfl, fun s => ⟨⟨_, rfl, rfl, fun i => ⟨fun hi => ?_, fun hi => ?_⟩⟩, ⟨_, rfl, rfl, fun i => ?_⟩,
    ⟨_, rfl, rfl, fun i => ?_⟩⟩⟩
  · rw [ldvOp_v_get, if_pos (show i.val < Alg.words .sha1 from hi), toNat_narrow_of_width rfl]
  · rw [ldvOp_v_get, if_neg (show ¬i.val < Alg.words .sha1 from hi.not_gt)]
  · rw [ldvOp_v_get, if_pos (show i.val < Alg.words .sha256 from i.isLt), toNat_narrow_of_width rfl]
  · rw [ldvOp_v_get, if_pos (show i.val < Alg.words .sha512 from i.isLt), narrow]

end Sys2Proof
end

section
/-! The run, step by step (O57 to O59): a host's turn leaves a run where it is (`Follows.hostEffect`,
`stepsLeft_hostEffect`), the sequencer's turn is a micro-operation of the run (`Inv.microResult_of_step`), and
`hashRun_ends` puts the steps together. -/

namespace Sys2Proof.Machine

/-! ## A run that follows the digest function -/

section
variable {a : Alg} {m : Nat → Byte} {l : Nat} {s t : State} (h : Follows a m l s)
include h

theorem Follows.popTurn : Follows a m l s.popTurn := { h with }

theorem Follows.respond (x : Word) : Follows a m l (s.respond x) := { h with }

theorem Follows.reject (c : BitVec 4) : Follows a m l (s.reject c) := { h with }

/-- Once the run has ended the host may write the length: only a busy core reads the message. -/
theorem Follows.setMsgLen (hb : s.phase.busy = false) (x : Word) : Follows a m l (s.setMsgLen x) :=
  { h with message := fun hbusy => nomatch hb.symm.trans hbusy }

theorem Follows.storeByte (hb : s.phase.busy = false) (k : Nat) (b : Byte) : Follows a m l (s.storeByte k b) :=
  { h with message := fun hbusy => nomatch hb.symm.trans hbusy }

/-- A transaction leaves the run on the digest function, is a `RESET`, or starts the next run from DONE
(70_reset_and_hazards.md R240). -/
theorem Follows.hostEffect {i : Instr} (he : HostEffect i s t) :
    Follows a m l t ∨ i = .reset ∨ (s.phase = .done ∧ t.phase = .pad) := by
  rcases he with rfl | ⟨r, rfl⟩ | ⟨-, c, -, rfl⟩ | ⟨-, hb, d, rfl⟩ | ⟨-, hb, k, b, -, rfl⟩ | ⟨-, hb, -, b, rfl⟩ |
    ⟨hr, -⟩
  · exact .inl h
  · exact .inl (h.respond r)
  · exact .inl (h.reject c)
  · exact .inl (h.setMsgLen hb d)
  · exact .inl (h.storeByte hb k b)
  · exact .inr (.inr ⟨h.busy_or_done.resolve_left (by simp [hb]), rfl⟩)
  · exact .inr (.inl hr)

/-- A run that follows the digest function never meets a reserved code. -/
theorem Follows.not_reserved : ¬((s.phase.busy = true ∧ s.alg = 0#2) ∨ s.phase = .reservedB ∨ s.phase = .reservedC ∨
    s.phase = .reservedD ∨ s.phase = .reservedE) := by
  obtain ⟨-, hlegal⟩ := h.started
  rintro (⟨-, h0⟩ | hp | hp | hp | hp)
  · exact a.code_ne_zero (h.alg.symm.trans h0)
  all_goals rw [hp] at hlegal; cases hlegal

end

/-! ## The micro-operations left -/

section
variable {a : Alg} {s t : State}

/-- A transaction other than `RESET` leaves a run as many micro-operations as before. -/
theorem stepsLeft_hostEffect {i : Instr} (hb : s.phase.busy = true) (he : HostEffect i s t) (hr : i ≠ .reset) :
    stepsLeft a t = stepsLeft a s := by
  rw [(he.frame_of_busy hb).resolve_left hr]
  rfl

/-- The sequencer's turn in a run performs the run's micro-operation. -/
theorem Inv.microResult_of_step (h : Inv s) (hb : s.phase.busy = true) (ha : s.alg = a.code) (ht : step s = .next t)
    (hseq : ∀ x rest, s.turns ≠ .host x :: rest) : Machine.microResult a s.popTurn = .next t := by
  rcases step_cases ht with ⟨x, rest, -, hx, -⟩ | ⟨-, ⟨b, -, hb', hm⟩ | ⟨hstill, -⟩ | ⟨hres, -⟩⟩
  · exact absurd hx (hseq x rest)
  · rwa [State.eq_of_algorithm hb' (State.algorithm_of_alg ha)]
  · rcases hstill with hp | hp | hp <;> rw [hp] at hb <;> cases hb
  · exact absurd hres h.not_reserved

end

end Sys2Proof.Machine

namespace Sys2Proof

open Machine

/-- Settles O57: a host's turn by `Follows.hostEffect`, the sequencer's by `Follows.microResult`. -/
theorem stepFollowsTheDigestFunction : Obligations.StepFollowsTheDigestFunction := by
  intro a m l s t h ht
  rcases step_cases ht with ⟨x, rest, i, hturns, hd, hx⟩ | ⟨-, ⟨b, -, hb, hm⟩ | ⟨-, rfl⟩ | ⟨hres, -⟩⟩
  · rcases h.popTurn.hostEffect (host_cases hd hx) with hf | rfl | hpad
    · exact .inl hf
    · exact .inr (.inl ⟨x, rest, hturns, hd⟩)
    · exact .inr (.inr hpad)
  · obtain rfl := State.eq_of_algorithm hb (State.algorithm_of_alg h.alg)
    exact .inl (h.popTurn.microResult hm)
  · exact .inl h.popTurn
  · exact absurd hres h.not_reserved

/-- Settles O58: the sequencer's turn by `stepsLeft_microResult`, a host's by `stepsLeft_hostEffect`. -/
theorem everyTurnBringsTheRunNearer : Obligations.EveryTurnBringsTheRunNearer := by
  intro s t a h hb halg ht
  have ha : s.alg = a.code := Alg.code_of_ofCode halg
  refine ⟨stepsLeft_pos a hb, fun hp => ?_, fun hseq => ?_, ?_⟩
  · rw [stepsLeft, hp]
    rfl
  · exact stepsLeft_microResult (s := s.popTurn) h.popTurn ha hb (h.microResult_of_step hb ha ht hseq)
  · rintro ⟨x, rest, hturns, hr⟩
    rcases step_cases ht with ⟨y, _, i, hturns', hd, hx⟩ | ⟨hseq, -⟩
    · cases hturns.symm.trans hturns'
      exact stepsLeft_hostEffect (s := s.popTurn) hb (host_cases hd hx) fun hi => hr (hi ▸ hd)
    · exact absurd hturns (hseq x rest)

/-- Settles O59: `hashRun_ends` gives the end of the run, and the acceptance keeps the message and clears `ERR`. -/
theorem hashRunComputesTheDigest : Obligations.HashRunComputesTheDigest := by
  intro s a h hq hl ht
  obtain ⟨t, hrun, hend⟩ := hashRun_ends h hq hl ht
  exact ⟨t, hrun, hend.phase, hend.alg, hend.err, fun _ => hend.acc, hend.msg, hend.msgLen⟩

end Sys2Proof
end

section
/-! The transitions of `PHASE` (O51): the sequencer's turn row by row (`SequencerRow`), and which transactions of the
host move the sequencer. -/

namespace Sys2Proof

theorem Phase.quiescent_of_not_busy {p : Phase} (hlegal : p.legal = true ∨ p = .fault) (hf : p.fatal = false)
    (hb : p.busy = false) : p = .idle ∨ p = .done := by
  cases p <;> simp [Phase.legal, Phase.fatal, Phase.busy] at hlegal hf hb ⊢

end Sys2Proof

namespace Sys2Proof.Machine

/-! ## The sequencer's turn -/

/-- The row of a phase in the table of 43_accumulator_driver.md R184: where the micro-operation leads from `s`, as
its own rule says. A phase that has no micro-operation leads nowhere. -/
def SequencerRow (a : Alg) (s t : State) : Phase → Prop
  | .pad => t.phase = .init ∧ t.bi = s.bi ∧ t.t = s.t
  | .init => t.phase = .ldblk ∧ t.bi = 0 ∧ t.t = s.t
  | .ldblk => t.phase = .exp ∧ t.bi = s.bi ∧ t.t = 16#7
  | .exp => t.bi = s.bi ∧
      (16 ≤ s.t.toNat → s.t.toNat < a.rounds - 1 → t.phase = .exp ∧ t.t.toNat = s.t.toNat + 1) ∧
      (s.t.toNat = a.rounds - 1 → t.phase = .ldv ∧ t.t = s.t) ∧
      (s.t.toNat < 16 ∨ a.rounds ≤ s.t.toNat → t.phase = .fault ∧ t.t = s.t ∧ t.err = 1#4)
  | .ldv => t.phase = .rnd ∧ t.bi = s.bi ∧ t.t = 0#7
  | .rnd => t.bi = s.bi ∧
      (s.t.toNat < a.rounds - 1 → t.phase = .rnd ∧ t.t.toNat = s.t.toNat + 1) ∧
      (s.t.toNat = a.rounds - 1 → t.phase = .accum ∧ t.t = s.t) ∧
      (a.rounds ≤ s.t.toNat → t.phase = .fault ∧ t.t = s.t ∧ t.err = 1#4)
  | .accum => t.phase = .next ∧ t.bi = s.bi ∧ t.t = s.t
  | .next => (s.bi + 1 ≠ s.nblk → t.phase = .ldblk ∧ t.bi = s.bi + 1 ∧ t.t = s.t) ∧
      (s.bi + 1 = s.nblk → t.phase = .fin ∧ t.bi = s.bi ∧ t.t = s.t)
  | .fin => t.phase = .done ∧ t.bi = s.bi ∧ t.t = s.t
  | .idle | .done | .fault | .reservedB | .reservedC | .reservedD | .reservedE =>
      t.phase = s.phase ∧ t.bi = s.bi ∧ t.t = s.t

section
variable (a : Alg) (s : State)

theorem expOp_row : SequencerRow a s (expOp a s) .exp := by
  obtain ⟨hlo, hrounds⟩ := a.rounds_bounds
  rcases expOp_cases a s with ⟨hout, e⟩ | ⟨-, hlast, e⟩ | ⟨hlow, hlt, e⟩ <;> rw [e]
  · exact ⟨rfl, fun h16 hlt => absurd ⟨h16, hlt.le⟩ hout, fun hlast => absurd ⟨by omega, hlast.le⟩ hout,
      fun _ => ⟨rfl, rfl, rfl⟩⟩
  · exact ⟨rfl, fun _ hlt => absurd hlast hlt.ne, fun _ => ⟨rfl, rfl⟩, fun hout => by omega⟩
  · exact ⟨rfl, fun _ _ => ⟨rfl, index_succ hlt (by omega)⟩, fun hlast => absurd hlast hlt.ne, fun hout => by omega⟩

theorem rndOp_row : SequencerRow a s (rndOp a s) .rnd := by
  obtain ⟨hlo, hrounds⟩ := a.rounds_bounds
  rcases rndOp_cases a s with ⟨hout, e⟩ | ⟨hlast, e⟩ | ⟨hlt, e⟩ <;> rw [e]
  · exact ⟨rfl, fun hlt => absurd hlt hout.asymm, fun hlast => absurd hlast hout.ne', fun _ => ⟨rfl, rfl, rfl⟩⟩
  · exact ⟨rfl, fun hlt => absurd hlast hlt.ne, fun _ => ⟨rfl, rfl⟩, fun hout => by omega⟩
  · exact ⟨rfl, fun _ => ⟨rfl, index_succ hlt (by omega)⟩, fun hlast => absurd hlast hlt.ne, fun hout => by omega⟩

theorem nextOp_row : SequencerRow a s (nextOp s) .next := by
  rcases nextOp_cases s with ⟨hlast, e⟩ | ⟨hne, e⟩ <;> rw [e]
  · exact ⟨fun hne => absurd hlast hne, fun _ => ⟨rfl, rfl, rfl⟩⟩
  · exact ⟨fun _ => ⟨rfl, rfl, rfl⟩, fun hlast => absurd hlast hne⟩

end

/-- Each micro-operation goes where its phase's row says. -/
theorem microResult_row {a : Alg} {s t : State} (hm : microResult a s = .next t) : SequencerRow a s t s.phase := by
  rw [microResult] at hm
  cases hp : s.phase <;> simp only [hp] at hm
  case ldblk =>
    rcases ldblkOp_cases a s with ⟨_, -, e⟩ | ⟨-, e⟩ <;> rw [e] at hm <;> cases hm
    exact ⟨rfl, rfl, rfl⟩
  all_goals cases hm
  case exp => exact expOp_row a s
  case rnd => exact rndOp_row a s
  case next => exact nextOp_row a s
  all_goals exact ⟨rfl, rfl, rfl⟩

/-- Where no code is reserved the sequencer's turn goes where its phase's row says, with the algorithm in `ALG`. -/
theorem sequencerStep_row {s t : State} (hlegal : s.phase.legal = true ∨ s.phase = .fault)
    (halg : s.phase.busy = true → s.alg ≠ 0#2) (h : step s = .next t)
    (hseq : ∀ x rest, s.turns ≠ .host x :: rest) :
    ∃ a, (s.phase.busy = true → s.algorithm = some a) ∧ SequencerRow a s t s.phase := by
  rcases step_cases h with ⟨x, rest, _, ht, -⟩ | ⟨-, ⟨a, -, ha, hm⟩ | ⟨hstill, rfl⟩ | ⟨hres, -⟩⟩
  · exact absurd ht (hseq x rest)
  · exact ⟨a, fun _ => State.algorithm_of_alg ha, microResult_row (s := s.popTurn) hm⟩
  · refine ⟨.sha1, ?_⟩
    rcases hstill with hp | hp | hp <;> rw [hp] <;> exact ⟨nofun, rfl, rfl, rfl⟩
  · rcases hres with ⟨hb, h0⟩ | hp | hp | hp | hp
    · exact absurd h0 (halg hb)
    all_goals simp [hp, Phase.legal] at hlegal

/-! ## The host's turn -/

/-- A `HASH` word's write to `CMD` that a core accepts (44_host_interface.md R195, R197). -/
def IsAccepted (i : Instr) (s : State) : Prop :=
  (i = .wrCmd 0x11#64 ∨ i = .wrCmd 0x12#64 ∨ i = .wrCmd 0x13#64) ∧ (s.phase = .idle ∨ s.phase = .done) ∧
    s.msgLen.toNat ≤ s.cfg.msgCap

section
variable {i : Instr} {s t : State}

theorem exec_of_isAccepted (h : IsAccepted i s) :
    ∃ a : Alg, i = .wrCmd (BitVec.ofNat 64 (0x10 + a.code.toNat)) ∧ exec i s = .next (s.accept a) := by
  obtain ⟨hword, hq, hl⟩ := h
  obtain ⟨a, rfl⟩ : ∃ a : Alg, i = .wrCmd (BitVec.ofNat 64 (0x10 + a.code.toNat)) := by
    rcases hword with rfl | rfl | rfl
    exacts [⟨.sha1, rfl⟩, ⟨.sha256, rfl⟩, ⟨.sha512, rfl⟩]
  refine ⟨a, rfl, ?_⟩
  rw [exec_wrCmd_hash a (Phase.not_fatal_of_quiescent hq), hashOp_of_quiescent a hq hl]

/-- But for `RESET`, only a `HASH` word's write to `CMD` moves the sequencer. -/
theorem HostWrites.phase (h : HostWrites s i t) (hr : i ≠ .reset) : t.phase = s.phase ∨ StartsRun i t := by
  cases h
  case reset => exact absurd rfl hr
  case hash a => exact .inr (accept_startsRun a s)
  all_goals exact .inl rfl

/-- Only a quiescent core that has room for the message can be moved by a transaction other than `RESET`. -/
theorem HostEffect.phase (h : HostEffect i s t) (hr : i ≠ .reset) :
    t.phase = s.phase ∨ (s.phase.fatal = false ∧ s.phase.busy = false ∧ s.msgLen.toNat ≤ s.cfg.msgCap) := by
  rcases h with rfl | ⟨r, rfl⟩ | ⟨-, c, -, rfl⟩ | ⟨-, -, d, rfl⟩ | ⟨-, -, k, b, -, rfl⟩ | ⟨hf, hb, hl, -⟩ | ⟨hi, -⟩
  case inr.inr.inr.inr.inr.inl => exact .inr ⟨hf, hb, hl⟩
  case inr.inr.inr.inr.inr.inr => exact absurd hi hr
  all_goals exact .inl rfl

/-- Any other transaction leaves the position of the sequencer. -/
theorem host_keeps_position {x : HostTxn} (hlegal : s.phase.legal = true ∨ s.phase = .fault)
    (hd : decodeTxn x = .instr i) (h : exec i s = .next t) (hr : i ≠ .reset) (hi : ¬IsAccepted i s) :
    t.phase = s.phase ∧ t.bi = s.bi ∧ t.t = s.t := by
  have hw := host_writes hd h
  obtain ⟨-, -, -, hbi, hindex, -⟩ := hw.keeps_datapath hr
  refine ⟨?_, hbi, hindex⟩
  rcases HostEffect.phase (host_cases hd h) hr with hphase | ⟨hf, hb, hl⟩
  · exact hphase
  · refine (hw.phase hr).resolve_right fun ⟨hword, _⟩ => hi ⟨hword, ?_, hl⟩
    exact Phase.quiescent_of_not_busy hlegal hf hb

end

/-- A `HASH` word names its algorithm (30_encoding.md R84, R86). -/
theorem code_of_hashWord (a : Alg) {i : Instr} (hi : i = .wrCmd (BitVec.ofNat 64 (0x10 + a.code.toNat))) :
    (i = .wrCmd 0x11#64 → a.code = 1#2) ∧ (i = .wrCmd 0x12#64 → a.code = 2#2) ∧
      (i = .wrCmd 0x13#64 → a.code = 3#2) := by
  subst hi
  cases a <;> decide

end Sys2Proof.Machine

namespace Sys2Proof

open Machine

/-- Settles O51: the sequencer's rows by `sequencerStep_row`; at the host's turn an accepted `HASH` word by
`exec_of_isAccepted`, any other transaction by `host_keeps_position`. -/
theorem phaseTransitionsAreTheTable : Obligations.PhaseTransitionsAreTheTable := by
  intro s t hlegal halg h
  rcases step_cases h with ⟨x, rest, i, hturns, hd, hx⟩ | ⟨hseq, -⟩
  · refine .inl ⟨x, rest, i, hturns, hd, fun hi => ?_, fun hi => ?_,
      fun hr hi => host_keeps_position (s := s.popTurn) hlegal hd hx hr hi⟩
    · subst hi
      cases hx
      rfl
    · obtain ⟨a, hword, he⟩ := exec_of_isAccepted (s := s.popTurn) hi
      cases he.symm.trans hx
      exact ⟨rfl, rfl, rfl, rfl, code_of_hashWord a hword⟩
  · obtain ⟨a, ha, hrow⟩ := sequencerStep_row hlegal halg h hseq
    have row : ∀ p, s.phase = p → SequencerRow a s t p := fun p hp => hp ▸ hrow
    refine .inr ⟨hseq, ?_, row .pad, row .init, row .ldblk, fun hp => ⟨a, ha (by rw [hp]; rfl), row .exp hp⟩,
      row .ldv, fun hp => ⟨a, ha (by rw [hp]; rfl), row .rnd hp⟩, row .accum, row .next, row .fin⟩
    rintro (hp | hp | hp)
    exacts [row .idle hp, row .done hp, row .fault hp]

end Sys2Proof
end

section
/-! The accumulator and the ends of the block loop against their rules (O42 to O45). -/

namespace Sys2Proof.Machine

/-- Under an algorithm of 32 bits the addition into the accumulator is modulo 2^32 (43_accumulator_driver.md R174,
R175). -/
theorem toNat_addWord_of_width {a : Alg} (h : a.width = 32) (x y : Word) :
    (addWord a x y).toNat = (x.toNat + y.toNat) % 2 ^ 32 := by
  have hadd : (zext64 (low32 x + low32 y)).toNat = (x.toNat + y.toNat) % 2 ^ 32 := by
    rw [zext64, BitVec.toNat_setWidth_of_le (by decide), BitVec.toNat_add, low32, low32, BitVec.toNat_setWidth,
      BitVec.toNat_setWidth, ← Nat.add_mod]
  cases a with
  | sha1 => exact hadd
  | sha256 => exact hadd
  | sha512 => cases h

/-- `ACCUM` adds in the algorithm's words and writes no other (43_accumulator_driver.md R174 to R176). -/
theorem accumOp_acc_get (a : Alg) (s : State) (i : Fin 8) :
    (accumOp a s).acc[i] = if i.val < a.words then addWord a s.acc[i] s.v[i] else s.acc[i] :=
  fold_get a s.acc s.v i.isLt

theorem initialAcc_sha1 : initialAcc .sha1 =
    #v[0x67452301#64, 0xEFCDAB89#64, 0x98BADCFE#64, 0x10325476#64, 0xC3D2E1F0#64, 0#64, 0#64, 0#64] := by decide

theorem initialAcc_sha256 : initialAcc .sha256 =
    #v[0x6A09E667#64, 0xBB67AE85#64, 0x3C6EF372#64, 0xA54FF53A#64, 0x510E527F#64, 0x9B05688C#64, 0x1F83D9AB#64,
      0x5BE0CD19#64] := by decide

theorem initialAcc_sha512 : initialAcc .sha512 =
    #v[0x6A09E667F3BCC908#64, 0xBB67AE8584CAA73B#64, 0x3C6EF372FE94F82B#64, 0xA54FF53A5F1D36F1#64,
      0x510E527FADE682D1#64, 0x9B05688C2B3E6C1F#64, 0x1F83D9ABFB41BD6B#64, 0x5BE0CD19137E2179#64] := by decide

end Sys2Proof.Machine

namespace Sys2Proof

open Machine

/-- Settles O42: `INIT` writes `initialAcc`, whose words are the constants of R42, R44 and R46. -/
theorem accumulatorInitialises : Obligations.AccumulatorInitialises := by
  refine ⟨rfl, rfl, rfl, fun s => ?_⟩
  rw [← initialAcc_sha1, ← initialAcc_sha256, ← initialAcc_sha512]
  exact ⟨rfl, rfl, rfl⟩

/-- Settles O43: each word by `accumOp_acc_get`. -/
theorem workingRegistersAddIntoAccumulator : Obligations.WorkingRegistersAddIntoAccumulator := by
  refine ⟨rfl, rfl, rfl, fun s => ⟨⟨_, rfl, rfl, fun i => ⟨fun hi => ?_, fun hi => ?_⟩⟩, ⟨_, rfl, rfl, fun i => ?_⟩,
    ⟨_, rfl, rfl, fun i => ?_⟩⟩⟩
  · rw [accumOp_acc_get, if_pos (show i.val < Alg.words .sha1 from hi), toNat_addWord_of_width rfl]
  · rw [accumOp_acc_get, if_neg (show ¬i.val < Alg.words .sha1 from hi.not_gt)]
  · rw [accumOp_acc_get, if_pos (show i.val < Alg.words .sha256 from i.isLt), toNat_addWord_of_width rfl]
  · rw [accumOp_acc_get, if_pos (show i.val < Alg.words .sha512 from i.isLt), addWord, BitVec.toNat_add]

/-- Settles O44: the two cases of `nextOp_cases`. -/
theorem nextFollowsItsRule : Obligations.NextFollowsItsRule := by
  intro s a
  refine ⟨by cases a <;> rfl, ?_⟩
  rcases nextOp_cases s with ⟨hlast, e⟩ | ⟨hne, e⟩
  · exact ⟨fun _ => congrArg _ e, fun hne => absurd hlast hne⟩
  · exact ⟨fun hlast => absurd hlast hne, fun _ => congrArg _ e⟩

/-- Settles O45. -/
theorem finFollowsItsRule : Obligations.FinFollowsItsRule := fun _ a =>
  ⟨by cases a <;> rfl, _, rfl, rfl, rfl, rfl⟩

end Sys2Proof
end

section
/-! The host interface (O11, O13, O15 to O21, O49): `WR.MSG_LEN`, `WRB` and `HASH.alg` share the order of their first
tests (`gated`); a `CMD` write is dispatched by `wrCmd_cases`; in FAULT only `RESET` reaches the core; and no step stops
from a state that meets the invariant. -/

namespace Sys2Proof

theorem Phase.fatal_eq_false_iff (p : Phase) : p.fatal = false ↔ p ≠ .fault := decide_eq_false_iff_not

theorem Phase.ne_fault_of_busy {p : Phase} (h : p.busy = true) : p ≠ .fault := by rintro rfl; cases h

theorem Phase.ne_fault_of_legal {p : Phase} (h : p.legal = true) : p ≠ .fault := by rintro rfl; cases h

/-- A descriptor is the number `KIND * 16 + REG` (30_encoding.md R88). -/
theorem ofNat_eq_txnCode (kind : BitVec 2) (reg : BitVec 4) :
    BitVec.ofNat 6 (16 * kind.toNat + reg.toNat) = txnCode kind reg := by
  rw [← txnCode_toNat, BitVec.ofNat_toNat, BitVec.setWidth_eq]

/-- The descriptors 0x00 to 0x0F read (30_encoding.md R88). -/
theorem decodeTxn_ofNat_read (reg : BitVec 4) (a d : Word) :
    decodeTxn ⟨BitVec.ofNat 6 reg.toNat, a, d⟩ = .instr (decodeRead reg) := by
  rw [← decodeTxn_read, ← ofNat_eq_txnCode, show 16 * (0#2).toNat + reg.toNat = reg.toNat from Nat.zero_add _]

/-- The descriptors 0x10 to 0x1F write (30_encoding.md R88). -/
theorem decodeTxn_ofNat_write (reg : BitVec 4) (a d : Word) :
    decodeTxn ⟨BitVec.ofNat 6 (16 + reg.toNat), a, d⟩ = .instr (decodeWrite reg d) := by
  rw [← decodeTxn_write reg a d, ← ofNat_eq_txnCode]
  rfl

namespace Machine

/-! ## The `STATUS` word -/

/-- Fields side by side are the high one shifted past the low one, and added. -/
theorem toNat_append_eq_add {n w : Nat} (x : BitVec n) (y : BitVec w) :
    (x ++ y).toNat = x.toNat * 2 ^ w + y.toNat := by
  rw [BitVec.toNat_append, ← Nat.shiftLeft_add_eq_or_of_lt y.isLt, Nat.shiftLeft_eq]

/-- The fields of `STATUS`, at their weights (10_state.md R37). -/
theorem State.status_eq_fields (s : State) : s.status = BitVec.ofNat 64 (s.phase.busy.toNat +
    2 * s.phase.isDone.toNat + 4 * s.phase.fatal.toNat + 16 * s.alg.toNat + 256 * s.err.toNat) := by
  have hvalue : s.status.toNat = s.phase.busy.toNat + 2 * s.phase.isDone.toNat + 4 * s.phase.fatal.toNat +
      16 * s.alg.toNat + 256 * s.err.toNat := by
    simp only [State.status, toNat_append_eq_add, BitVec.toNat_ofBool, BitVec.toNat_ofNat]
    omega
  rw [← hvalue, BitVec.ofNat_toNat, BitVec.setWidth_eq]

/-! ## The order of tests -/

section
variable (s : State) (r : Host.Outcome State Fault Refusal)

/-- What a transaction or command does that is discarded in FAULT, rejected with cause 3 while busy, and answered with
`r` else (60_exceptions.md R215). -/
def gated : Host.Outcome State Fault Refusal :=
  if s.phase.fatal then .next s else if s.phase.busy then .next (s.reject causeBusyWrite) else r

theorem exec_wrMsgLen (d : Word) : exec (.wrMsgLen d) s = gated s (.next (s.setMsgLen d)) := rfl

theorem exec_wrb (a : Word) (b : Byte) : exec (.wrb a b) s = gated s
    (if s.cfg.msgCap ≤ a.toNat then .next (s.reject causeLenRange) else .next (s.storeByte a.toNat b)) := rfl

theorem next_hashOp (a : Alg) : .next (hashOp a s) = gated s
    (if s.cfg.msgCap < s.msgLen.toNat then .next (s.reject causeLenRange) else .next (s.accept a)) := by
  simp only [hashOp, gated, apply_ite Host.Outcome.next]

variable {s}

theorem gated_of_fault (h : s.phase = .fault) : gated s r = .next s := if_pos (s.phase.fatal_iff.2 h)

theorem gated_of_busy (h : s.phase.busy = true) : gated s r = .next (s.reject causeBusyWrite) := by
  rw [gated, s.phase.fatal_eq_false_iff.2 (Phase.ne_fault_of_busy h), h]
  rfl

theorem gated_of_quiescent (hf : s.phase ≠ .fault) (hb : s.phase.busy = false) : gated s r = r := by
  rw [gated, s.phase.fatal_eq_false_iff.2 hf, hb]
  rfl

end

/-- `MSG_LEN` takes the low `LENW` bits (44_host_interface.md R192). -/
theorem lengthOf_toNat (c : Platform) (x : Word) : (lengthOf c x).toNat = x.toNat % 2 ^ c.lenw := by
  rw [lengthOf, BitVec.toNat_ofNat, Nat.mod_eq_of_lt ((Nat.mod_le _ _).trans_lt x.isLt)]

/-! ## Writes to `CMD` -/

theorem exec_wrCmd_of_fault {s : State} (h : s.phase = .fault) (d : Word) : exec (.wrCmd d) s = .next s :=
  if_pos (s.phase.fatal_iff.2 h)

/-- The word of `NOP` does nothing in any phase (44_host_interface.md R201). -/
theorem exec_wrCmd_nop (s : State) : exec (.wrCmd 0x00#64) s = .next s := by
  rcases wrCmd_cases 0x00#64 s with ⟨-, e⟩ | ⟨-, -, e⟩ | ⟨-, a, h, -⟩ | ⟨-, ⟨h, -⟩, -⟩
  · exact e
  · exact e
  · cases a <;> cases h
  · exact absurd rfl h

/-- While busy every word but `NOP`'s is rejected: a `HASH` with cause 3, any other with cause 2. -/
theorem exec_wrCmd_of_busy {s : State} (hb : s.phase.busy = true) {d : Word} (hd : d ≠ 0) :
    ∃ c, (c = causeCmdIllegal ∨ c = causeBusyWrite) ∧ exec (.wrCmd d) s = .next (s.reject c) := by
  rcases wrCmd_cases d s with ⟨hf, -⟩ | ⟨-, h, -⟩ | ⟨-, a, -, e⟩ | ⟨-, -, e⟩
  · exact absurd (s.phase.fatal_iff.1 hf) (Phase.ne_fault_of_busy hb)
  · exact absurd h hd
  · exact ⟨_, .inr rfl, by rw [e, next_hashOp, gated_of_busy _ hb]⟩
  · exact ⟨_, .inl rfl, e⟩

/-! ## FAULT -/

/-- In FAULT a transaction other than `RESET` is read or discarded (60_exceptions.md R213). -/
theorem HostEffect.frame_of_fault {i : Instr} {s t : State} (h : HostEffect i s t) (hp : s.phase = .fault) :
    i = .reset ∨ t = { s with reply := t.reply } := by
  have hfatal := s.phase.fatal_iff.2 hp
  rcases h with rfl | ⟨r, rfl⟩ | ⟨hf, -⟩ | ⟨hf, -⟩ | ⟨hf, -⟩ | ⟨hf, -⟩ | ⟨hr, -⟩
  case inr.inr.inr.inr.inr.inr => exact .inl hr
  case inl | inr.inl => exact .inr rfl
  all_goals exact absurd hfatal (Bool.eq_false_iff.1 hf)

/-! ## Steps that complete -/

section
variable {s : State} (h : Inv s)
include h

/-- From a state that meets the invariant the sequencer's turn completes: no code is reserved and no block outside the
memory. -/
theorem Inv.sequencer_completes (hf : fetch s = fetchMicro s.popTurn) : ∃ t, step s = .next t := by
  rcases fetchMicro_cases s.popTurn with ⟨a, i, hb, -, hr, hx⟩ | ⟨-, hr⟩ | ⟨hres, -⟩
  · rw [step, hf, hr]
    simp only [hx]
    exact microResult_completes h.popTurn a hb
  · exact ⟨_, by rw [step, hf, hr]⟩
  · exact absurd hres h.not_reserved

theorem Inv.step_completes (hu : ∀ u ∈ s.turns.head?, Turn.issuable u = true) : ∃ t, step s = .next t := by
  cases ht : s.turns with
  | nil => exact h.sequencer_completes (by simp only [fetch, ht])
  | cons u rest =>
    cases u with
    | seq => exact h.sequencer_completes (by simp only [fetch, ht])
    | host x =>
      have hx : (decodeTxn x).toOption.isSome = true := hu (.host x) (by rw [ht]; rfl)
      cases hd : decodeTxn x with
      | instr i =>
        rw [step_host ht hd]
        exact host_completes hd s.popTurn
      | reject r => simp [hd, Decoded.toOption] at hx

end

end Machine

open Machine

/-- Settles O11: `STATUS` is the sum of its fields at their weights. -/
theorem statusReadReturnsItsFields : Obligations.StatusReadReturnsItsFields :=
  ⟨decodeTxn_read 1#4, fun s => by rw [exec_rdStatus, s.status_eq_fields]⟩

/-- Settles O18: the tests of `gated`, then the address; the write by the memory's read-after-write laws. -/
theorem byteWriteFollowsItsRule : Obligations.ByteWriteFollowsItsRule := by
  refine ⟨decodeTxn_byte, fun s addr byte => ?_⟩
  rw [exec_wrb]
  refine ⟨gated_of_fault _, gated_of_busy _, fun hf hb hcap => ?_, fun hf hb hlt => ?_⟩
  · rw [gated_of_quiescent _ hf hb, if_pos hcap]
    rfl
  · refine ⟨s.storeByte addr.toNat byte, ?_, rfl, s.msgByte_storeByte_same _ byte,
      fun _ ha => s.msgByte_storeByte_other byte ha⟩
    rw [gated_of_quiescent _ hf hb, if_neg hlt.not_ge]

/-- Settles O21: a host's turn by `HostEffect.frame_of_fault`; the sequencer has no step in FAULT. -/
theorem faultIsLatchedUntilReset : Obligations.FaultIsLatchedUntilReset := by
  intro s t hp h
  rcases step_cases h with ⟨x, rest, i, ht, hd, hx⟩ | ⟨-, ⟨a, hb, -⟩ | ⟨-, rfl⟩ | ⟨hres, -⟩⟩
  · rcases HostEffect.frame_of_fault (host_cases hd hx) hp with rfl | e
    · exact .inl ⟨x, rest, ht, hd⟩
    · exact .inr (by rw [e]; rfl)
  · exact absurd hp (Phase.ne_fault_of_busy hb)
  · exact .inr rfl
  · simp [hp, Phase.busy] at hres

/-- Settles O49: the step completes by `Inv.step_completes` and keeps the invariant, whose phases exclude FAULT. -/
theorem stepAlwaysCompletes : Obligations.StepAlwaysCompletes := by
  intro s h hu
  obtain ⟨t, ht⟩ := h.step_completes hu
  have hlegal := (stepKeepsTheInvariant s t h ht).legal
  exact ⟨t, ht, t.phase.fatal_eq_false_iff.2 (Phase.ne_fault_of_legal hlegal)⟩

/-- Settles O13: the reserved register numbers are those of a well-formed `RD.RSVD`. -/
theorem otherReadsReturnTheirRegister : Obligations.OtherReadsReturnTheirRegister := by
  refine ⟨decodeTxn_read 0#4, decodeTxn_read 2#4, fun reg a d ⟨hlo, hhi⟩ => ?_, fun _ => ⟨rfl, fun _ _ => rfl, rfl⟩⟩
  have hwf : (Instr.rdRsvd reg).wf = true := by simp [Instr.wf, BitVec.le_def, hlo, hhi]
  rw [decodeTxn_ofNat_read, decodeRead_rdRsvd hwf]

/-- Settles O15, by `exec_wrCmd_nop` and `exec_wrCmd_of_busy`. -/
theorem nopDoesNothing : Obligations.NopDoesNothing :=
  ⟨rfl, fun s => ⟨rfl, exec_wrCmd_nop s, fun hb _ => exec_wrCmd_of_busy hb⟩⟩

/-- Settles O16: the register numbers are those of a well-formed `WR.RO`. -/
theorem readOnlyWriteIsDiscarded : Obligations.ReadOnlyWriteIsDiscarded := by
  intro s reg a data hreg
  have hwf : (Instr.wrRo reg data).wf = true := by
    simpa [Instr.wf, BitVec.le_def, ← BitVec.toNat_inj] using hreg
  exact ⟨by rw [decodeTxn_ofNat_write, decodeWrite_wrRo hwf], rfl⟩

/-- Settles O17: the tests of `gated`, and the width of `MSG_LEN`. -/
theorem msgLenWriteFollowsItsRule : Obligations.MsgLenWriteFollowsItsRule := by
  intro s data
  rw [exec_wrMsgLen]
  exact ⟨fun a => decodeTxn_write 2#4 a data, gated_of_fault _, gated_of_busy _, fun hf hb =>
    ⟨s.setMsgLen data, gated_of_quiescent _ hf hb, rfl, fun _ => lengthOf_toNat s.cfg data⟩⟩

/-- Settles O19: the three commands are `hashOp`, which is `gated` and then tests the length. -/
theorem hashCommandFollowsItsRule : Obligations.HashCommandFollowsItsRule := by
  refine ⟨rfl, rfl, rfl, fun s i algsel hi => ?_, fun _ => rfl, fun s w h0 h1 h2 h3 =>
    (illegalCommandWordIsRejected w s).2 ⟨h0, h1, h2, h3⟩⟩
  obtain ⟨a, hexec, rfl⟩ : ∃ a : Alg, exec i s = .next (hashOp a s) ∧ algsel = a.code := by
    rcases hi with hi | hi | hi <;> cases hi
    exacts [⟨.sha1, rfl, rfl⟩, ⟨.sha256, rfl, rfl⟩, ⟨.sha512, rfl, rfl⟩]
  rw [hexec, next_hashOp]
  refine ⟨gated_of_fault _, gated_of_busy _, fun hf hb hcap => ?_, fun hf hb hle => ?_⟩
  · rw [gated_of_quiescent _ hf hb, if_pos hcap]
    rfl
  · refine ⟨s.accept a, ?_, rfl, rfl, rfl, fun k => State.digestReg_of_not_done k nofun⟩
    rw [gated_of_quiescent _ hf hb, if_neg hle.not_gt]

/-- Settles O20: each legal word performs its command, and any other is rejected. -/
theorem commandWriteDispatches : Obligations.CommandWriteDispatches := by
  intro s data
  refine ⟨fun a => decodeTxn_write 0#4 a data, fun hp => exec_wrCmd_of_fault hp data, fun hp => ?_⟩
  have hhash := fun a => exec_wrCmd_hash a (s.phase.fatal_eq_false_iff.2 hp)
  refine ⟨?_, ?_, ?_, ?_, fun h0 h1 h2 h3 => ((illegalCommandWordIsRejected data s).2 ⟨h0, h1, h2, h3⟩).1 hp,
    host_completes (decodeTxn_wrCmd data) s⟩
  · rintro rfl
    exact exec_wrCmd_nop s
  · rintro rfl
    exact hhash .sha1
  · rintro rfl
    exact hhash .sha256
  · rintro rfl
    exact hhash .sha512

end Sys2Proof
end

section
/-! Runs from power-on and a run under way (O50, O54): the control invariant holds along every run whose listed turns a
host can take, so no such run stops or faults; and while busy the core keeps all a host's transaction could disturb. -/

namespace Sys2Proof.Machine

/-- From a state that meets the invariant a run of any length completes and keeps the invariant, whatever turns are
listed, if each is one a host can take. -/
theorem Inv.run_completes {s : State} (h : Inv s) (hu : ∀ u ∈ s.turns, Turn.issuable u = true) (n : Nat) :
    ∃ t : State, Host.Core.run Sys2Proof.core n s = .next t ∧ Inv t := by
  induction n generalizing s with
  | zero => exact ⟨s, rfl, h⟩
  | succ n ih =>
    obtain ⟨v, hv⟩ := h.step_completes fun u hmem => hu u (List.mem_of_mem_head? hmem)
    have hrest : ∀ u ∈ v.turns, Turn.issuable u = true := fun u hmem =>
      hu u (List.mem_of_mem_tail (step_turns hv ▸ hmem))
    rw [run_succ_of_next hv]
    exact ih (stepKeepsTheInvariant s v h hv) hrest

end Sys2Proof.Machine

namespace Sys2Proof

open Machine

/-- Settles O50: a power-on state meets the invariant, which the run keeps, and whose phases exclude FAULT. -/
theorem noRunFromPowerOnFaults : Obligations.NoRunFromPowerOnFaults := by
  intro s n hc hpower hu
  obtain ⟨t, hrun, ht⟩ := (hpower.inv hc).run_completes hu n
  exact ⟨t, hrun, t.phase.fatal_eq_false_iff.2 (Phase.ne_fault_of_legal ht.legal)⟩

/-- Settles O54: the turn is the transaction's, whose effect on a busy core is `HostEffect.frame_of_busy`. -/
theorem hostDoesNotDisturbTheRun : Obligations.HostDoesNotDisturbTheRun := by
  intro s t x rest hb hturns hreset h
  rcases step_cases h with ⟨_, _, i, ht, hd, hx⟩ | ⟨hseq, -⟩
  · cases hturns.symm.trans ht
    have hr : i ≠ .reset := fun hi => hreset (hi ▸ hd)
    have hframe := ((host_cases hd hx).frame_of_busy (s := s.popTurn) hb).resolve_left hr
    rwa [popTurn_of_cons hturns] at hframe
  · exact absurd hturns (hseq x rest)

end Sys2Proof
end

section
/-! The reset event (O22): `RESET` is accepted in every phase, and the widths bound the two counters it leaves open. -/

namespace Sys2Proof.Machine

/-- `RESET` is the reset event, whatever the phase: it makes none of the other writes' tests. -/
theorem exec_reset (s : State) : exec .reset s = .next s.resetCore := rfl

theorem State.resetCore_bi_lt (s : State) : s.resetCore.bi < 2 ^ s.cfg.lenw :=
  Nat.mod_lt _ (Nat.two_pow_pos _)

theorem State.resetCore_nblk_lt (s : State) : s.resetCore.nblk < 2 ^ s.cfg.lenw :=
  Nat.mod_lt _ (Nat.two_pow_pos _)

end Sys2Proof.Machine

namespace Sys2Proof

open Machine

/-- Settles O22: the state after is `State.resetCore`, whose fields R230 lists; IDLE sets no flag. -/
theorem resetTransactionFollowsItsRule : Obligations.ResetTransactionFollowsItsRule := by
  refine ⟨decodeTxn_reset, fun s => ⟨s.resetCore, exec_reset s, ?_⟩⟩
  have hphase : s.resetCore.phase = .idle := s.resetCore_phase
  refine ⟨hphase, s.resetCore_alg, s.resetCore_err, s.resetCore_msgLen, ?busy, ?done, ?fatal, s.resetCore_msg,
    s.resetCore_cfg, s.resetCore_chip, s.resetCore_turns, s.resetCore_reply, s.resetCore_bi_lt, s.resetCore_nblk_lt⟩
  all_goals rw [hphase]; rfl

end Sys2Proof
end
